-- ==== Sys2Proof/Word.lean ====
section
/-! DEFINITION. The word types of the KD2460 model and its units of time. -/

namespace Sys2Proof

/-- One byte of a frame, of a row or of the configuration image. -/
abbrev Byte := BitVec 8

/-- A 32-bit word: fob identifiers, counters, event masks (R114, R196). -/
abbrev Word32 := BitVec 32

/-- The thirteen payload bytes of a logical row (R168). -/
abbrev Content := Vector Byte 13

/-- An instant or a span of the model's clock, in µs. -/
abbrev Time := Nat

/-- A timer: stopped, or running and due at an instant of the clock. -/
abbrev Timer := Option Time

/-- A span of milliseconds in µs. -/
def msec (n : Nat) : Time := n * 1000

/-- A span of seconds in µs. -/
def sec (n : Nat) : Time := n * 1000000

/-- `x` limited to `lo..hi` (00, Conventions). -/
def clampNat (x lo hi : Nat) : Nat := max lo (min x hi)

end Sys2Proof
end

