-- ==== Sys2Proof/Syntax.lean ====
section
/-! DEFINITION. The commands of the KD2460: one constructor per row of spec/opcode_table.json, with the operands the rules
give it, and the names its operands use. -/

namespace Sys2Proof

/-! ### Fixed names (spec/00_scope.md) -/

/-- The five latches. -/
inductive Latch | fl | fr | rl | rr | tg
  deriving DecidableEq, Repr

/-- The two child locks: CL_L on the RL door, CL_R on the RR door. -/
inductive Side | left | right
  deriving DecidableEq, Repr

/-- The four windows. -/
inductive Win | w1 | w2 | w3 | w4
  deriving DecidableEq, Repr

/-- The three ports. -/
inductive Port | body | radio | restraint
  deriving DecidableEq, Repr

/-- The six fob slots (R114). -/
inductive SlotId | s0 | s1 | s2 | s3 | s4 | s5
  deriving DecidableEq, Repr

/-- The seven window switch channels (R70). -/
inductive Chan
  | panel (w : Win)
  | localFR
  | localRL
  | localRR
  deriving DecidableEq, Repr

/-- The twelve driven loads (R13). -/
inductive Actuator
  | lock (l : Latch)
  | child (c : Side)
  | release
  | window (w : Win)
  deriving DecidableEq, Repr

/-- The level of the DSIDE strap. -/
inductive DriverSide | left | right
  deriving DecidableEq, Repr

inductive Ajar | opened | closed
  deriving DecidableEq, Repr

/-- LATCHPOS readings (R24). -/
inductive LockPos | locked | unlocked
  deriving DecidableEq, Repr

/-- CHPOS readings and child lock states (R54). -/
inductive ChildPos | engaged | disengaged
  deriving DecidableEq, Repr

/-- The five ladder positions (R70). -/
inductive SwitchPos | neutral | down | downAuto | up | upAuto
  deriving DecidableEq, Repr

/-- A ladder reading: inside one of the position bands, or outside all of them (R70). -/
inductive Ladder
  | band (p : SwitchPos)
  | outside
  deriving DecidableEq, Repr

/-- The level of HALL_B at a rising edge of HALL_A: low is a closing pulse, high an opening pulse (R68). -/
inductive HallSense | closing | opening
  deriving DecidableEq, Repr

/-- The two key cylinder inputs (R45). -/
inductive KeyDir | lock | unlock
  deriving DecidableEq, Repr

/-- The four touch sensors (R132). -/
inductive Touch | unlockFL | lockFL | unlockFR | lockFR
  deriving DecidableEq, Repr

/-! ### Tables with one cell per name -/

structure Doors (α : Type) where
  fl : α
  fr : α
  rl : α
  rr : α
  tg : α
  deriving DecidableEq, Repr

structure Sides (α : Type) where
  left : α
  right : α
  deriving DecidableEq, Repr

structure Wins (α : Type) where
  w1 : α
  w2 : α
  w3 : α
  w4 : α
  deriving DecidableEq, Repr

structure Ports (α : Type) where
  body : α
  radio : α
  restraint : α
  deriving DecidableEq, Repr

structure Slots (α : Type) where
  s0 : α
  s1 : α
  s2 : α
  s3 : α
  s4 : α
  s5 : α
  deriving DecidableEq, Repr

structure Chans (α : Type) where
  panel : Wins α
  localFR : α
  localRL : α
  localRR : α
  deriving DecidableEq, Repr

variable {α : Type}

def Doors.all (x : α) : Doors α := ⟨x, x, x, x, x⟩
def Sides.all (x : α) : Sides α := ⟨x, x⟩
def Wins.all (x : α) : Wins α := ⟨x, x, x, x⟩
def Ports.all (x : α) : Ports α := ⟨x, x, x⟩
def Slots.all (x : α) : Slots α := ⟨x, x, x, x, x, x⟩
def Chans.all (x : α) : Chans α := ⟨Wins.all x, x, x, x⟩

def Doors.get (t : Doors α) : Latch → α
  | .fl => t.fl
  | .fr => t.fr
  | .rl => t.rl
  | .rr => t.rr
  | .tg => t.tg

def Doors.set (t : Doors α) (k : Latch) (x : α) : Doors α :=
  match k with
  | .fl => { t with fl := x }
  | .fr => { t with fr := x }
  | .rl => { t with rl := x }
  | .rr => { t with rr := x }
  | .tg => { t with tg := x }

def Sides.get (t : Sides α) : Side → α
  | .left => t.left
  | .right => t.right

def Sides.set (t : Sides α) (k : Side) (x : α) : Sides α :=
  match k with
  | .left => { t with left := x }
  | .right => { t with right := x }

def Wins.get (t : Wins α) : Win → α
  | .w1 => t.w1
  | .w2 => t.w2
  | .w3 => t.w3
  | .w4 => t.w4

def Wins.set (t : Wins α) (k : Win) (x : α) : Wins α :=
  match k with
  | .w1 => { t with w1 := x }
  | .w2 => { t with w2 := x }
  | .w3 => { t with w3 := x }
  | .w4 => { t with w4 := x }

def Ports.get (t : Ports α) : Port → α
  | .body => t.body
  | .radio => t.radio
  | .restraint => t.restraint

def Ports.set (t : Ports α) (k : Port) (x : α) : Ports α :=
  match k with
  | .body => { t with body := x }
  | .radio => { t with radio := x }
  | .restraint => { t with restraint := x }

def Slots.get (t : Slots α) : SlotId → α
  | .s0 => t.s0
  | .s1 => t.s1
  | .s2 => t.s2
  | .s3 => t.s3
  | .s4 => t.s4
  | .s5 => t.s5

def Slots.set (t : Slots α) (k : SlotId) (x : α) : Slots α :=
  match k with
  | .s0 => { t with s0 := x }
  | .s1 => { t with s1 := x }
  | .s2 => { t with s2 := x }
  | .s3 => { t with s3 := x }
  | .s4 => { t with s4 := x }
  | .s5 => { t with s5 := x }

def Chans.get (t : Chans α) : Chan → α
  | .panel w => t.panel.get w
  | .localFR => t.localFR
  | .localRL => t.localRL
  | .localRR => t.localRR

def Chans.set (t : Chans α) (k : Chan) (x : α) : Chans α :=
  match k with
  | .panel w => { t with panel := t.panel.set w x }
  | .localFR => { t with localFR := x }
  | .localRL => { t with localRL := x }
  | .localRR => { t with localRR := x }

/-- The names in the order the spec takes them (R36, R90). -/
def Latch.list : List Latch := [.fl, .fr, .rl, .rr, .tg]
def Latch.sides : List Latch := [.fl, .fr, .rl, .rr]
def Side.list : List Side := [.left, .right]
def Win.list : List Win := [.w1, .w2, .w3, .w4]
def Port.list : List Port := [.body, .radio, .restraint]
def SlotId.list : List SlotId := [.s0, .s1, .s2, .s3, .s4, .s5]
def Chan.list : List Chan :=
  [.panel .w1, .panel .w2, .panel .w3, .panel .w4, .localFR, .localRL, .localRR]
def Actuator.list : List Actuator :=
  Latch.list.map .lock ++ Side.list.map .child ++ [.release] ++ Win.list.map .window

/-! ### Operands -/

/-- The levels of the hard-wired inputs (pin summary of spec/00_scope.md): the debounced ones, and before the end of STARTING,
for an input that has not settled, the level at which it stands (R199, step 1; log 18). Buttons and touch sensors have no
cell: only their changes are ever read (log 21). -/
structure Pins where
  ajar : Doors Ajar
  latchpos : Doors LockPos
  chpos : Sides ChildPos
  keyLock : Bool
  keyUnlock : Bool
  ladders : Chans Ladder
  crashLow : Bool
  dside : DriverSide
  cs : Ports Bool
  deriving DecidableEq, Repr

/-- One physical row of the array (R168): erased, unreadable after an interrupted program (R176), or sixteen bytes that read
back as an id, a generation, a payload and a check byte. -/
inductive PhysRow
  | erased
  | unreadable
  | bytes (id gen : Byte) (payload : Content) (check : Byte)
  deriving DecidableEq, Repr

/-- The commands. `dt` is the time in µs since the step before (log 2). Requests carry the port and the payload bytes of
their well-formed frame; FRAME_ERROR and FRAME_IN_STARTING carry what SCK did: the bits sampled from SDI at its falling edges,
first bit first, or none for a pulse of CS without an edge of SCK (R184). -/
inductive Instr
  | powerOnReset (pins : Pins)
  | vbatSample (raw : Nat)
  | setContext (dt : Time) (p : Port) (payload : List Byte)
  | stalenessTimerExpiry
  | retainedPowerExpiry
  | stageOvercurrent (dt : Time) (a : Actuator)
  | stageStall (dt : Time) (a : Actuator) (openLoad : Bool)
  | lockBrakeHoldEnd (l : Latch)
  | ajarChange (dt : Time) (l : Latch) (v : Ajar)
  | latchposChange (dt : Time) (l : Latch) (v : LockPos)
  | lockDriveTimeExpiry (l : Latch) (openLoad : Bool)
  | lockSettleEnd (l : Latch)
  | heatCoolingExpiry (l : Latch)
  | lockRequest (dt : Time) (p : Port) (payload : List Byte)
  | centralButtonPress (dt : Time) (pressed : Bool)
  | keyCylinderTurn (dt : Time) (k : KeyDir) (active : Bool)
  | keyPressTimerExpiry
  | fobPressTimerExpiry
  | autoRelockExpiry
  | tailgateRelease (dt : Time) (p : Port) (payload : List Byte)
  | releasePulseEnd (openLoad : Bool)
  | releaseWatchExpiry
  | chposChange (dt : Time) (c : Side) (v : ChildPos)
  | childDriveTimeExpiry (c : Side) (openLoad : Bool)
  | childSettleEnd (c : Side)
  | childLock (dt : Time) (p : Port) (payload : List Byte)
  | childButtonPress (dt : Time) (pressed : Bool)
  | windowLockButtonPress (dt : Time) (pressed : Bool)
  | rearInhibit (dt : Time) (p : Port) (payload : List Byte)
  | hallEdge (dt : Time) (w : Win) (sense : HallSense)
  | noPulseTest (w : Win) (aboveStall : Bool)
  | switchChannelChange (dt : Time) (c : Chan) (reading : Ladder)
  | windowStall (w : Win)
  | runTimeout (w : Win)
  | windowBrakeEnd (w : Win)
  | windowRequest (dt : Time) (p : Port) (payload : List Byte)
  | normalizeWindow (dt : Time) (p : Port) (payload : List Byte)
  | accessTelegram (dt : Time) (p : Port) (payload : List Byte)
  | gapTimerExpiry
  | passiveTrigger (dt : Time) (t : Touch) (touched : Bool)
  | tgButtonPress (dt : Time) (pressed : Bool)
  | readSearch (dt : Time) (p : Port) (payload : List Byte)
  | searchResult (dt : Time) (p : Port) (payload : List Byte)
  | searchTimeout
  | enrolFob (dt : Time) (p : Port) (payload : List Byte)
  | removeFob (dt : Time) (p : Port) (payload : List Byte)
  | suspendFob (dt : Time) (p : Port) (payload : List Byte)
  | reinstateFob (dt : Time) (p : Port) (payload : List Byte)
  | setFobMode (dt : Time) (p : Port) (payload : List Byte)
  | crashLineLowMeasured (dt : Time)
  | crashLineLowEnd (dt : Time)
  | crashLineFault
  | crashGapTimeout
  | crashLineRecovery (dt : Time)
  | crashNotice (dt : Time) (p : Port) (payload : List Byte)
  | crashClear (dt : Time) (p : Port) (payload : List Byte)
  | patternPhaseEnd
  | rowProgramStart
  | rowProgramEnd (readback : Option PhysRow)
  | startupScanEnd
  | stageConfig (dt : Time) (p : Port) (payload : List Byte)
  | commitConfig (dt : Time) (p : Port) (payload : List Byte)
  | chipSelectFall (dt : Time) (p : Port)
  | frameError (dt : Time) (p : Port) (sck : Option (List Bool))
  | frameInStarting (dt : Time) (p : Port) (sck : Option (List Bool))
  | unknownRequest (dt : Time) (p : Port) (code : Byte) (payload : List Byte)
  | nop (dt : Time) (p : Port) (payload : List Byte)
  | readStatus (dt : Time) (p : Port) (payload : List Byte)
  | clearEvents (dt : Time) (p : Port) (payload : List Byte)
  | setEventEnable (dt : Time) (p : Port) (payload : List Byte)
  | restart (dt : Time) (p : Port) (payload : List Byte)
  | restartReset
  | eventDelayExpiry (p : Port)
  | startingEnd
  | parkIdleExpiry
  | crashLineGlitchEnd (dt : Time)
  deriving DecidableEq, Repr

end Sys2Proof
end

