-- ==== Sys2Proof/Machine/Bytes.lean ====
section
/-! DEFINITION. Bytes of the KD2460: the CRC of R183, the frames of R184 to R186, the configuration image of section 9.6
and the rows of the array. -/

namespace Sys2Proof

/-! ### CRC-8 (R183) -/

/-- One of the eight shifts of R183. -/
def crcShift (r : Byte) : Byte := if r.msb then (r <<< 1) ^^^ 0x1D#8 else r <<< 1

/-- One byte taken into the register (R183). -/
def crcByte (r b : Byte) : Byte :=
  crcShift (crcShift (crcShift (crcShift (crcShift (crcShift (crcShift (crcShift (r ^^^ b))))))))

/-- The check byte over `bs`, byte 0 first (R183). -/
def crc8 (bs : List Byte) : Byte := bs.foldl crcByte 0xFF#8 ^^^ 0xFF#8

/-! ### Multi-byte fields, most significant byte first (00, Conventions) -/

def byteOf (n : Nat) : Byte := BitVec.ofNat 8 n

def be16 (n : Nat) : List Byte := [byteOf (n / 256), byteOf n]

def be32 (x : Word32) : List Byte :=
  [byteOf (x.toNat / 16777216), byteOf (x.toNat / 65536), byteOf (x.toNat / 256), byteOf x.toNat]

def nat16 (hi lo : Byte) : Nat := hi.toNat * 256 + lo.toNat

def word32 (a b c d : Byte) : Word32 := a ++ b ++ c ++ d

/-- `bs` cut or filled with 00h to a fixed length. -/
def padBytes (n : Nat) (bs : List Byte) : Vector Byte n :=
  ⟨⟨(bs ++ List.replicate n 0#8).take n⟩, by simp⟩

/-! ### Frames (R184 to R186) -/

/-- Eight bits, first bit most significant (R184). -/
def byteOfBits (b7 b6 b5 b4 b3 b2 b1 b0 : Bool) : Byte :=
  byteOf (b7.toNat * 128 + b6.toNat * 64 + b5.toNat * 32 + b4.toNat * 16 + b3.toNat * 8 + b2.toNat * 4 + b1.toNat * 2
    + b0.toNat)

/-- The whole bytes clocked; a partial byte at the end is dropped (R185). -/
def bytesOfBits : List Bool → List Byte
  | b7 :: b6 :: b5 :: b4 :: b3 :: b2 :: b1 :: b0 :: rest => byteOfBits b7 b6 b5 b4 b3 b2 b1 b0 :: bytesOfBits rest
  | _ => []

/-- The bits of a byte in the order they are shifted, most significant first (R184). -/
def bitsOfByte (b : Byte) : List Bool :=
  [b.getLsbD 7, b.getLsbD 6, b.getLsbD 5, b.getLsbD 4, b.getLsbD 3, b.getLsbD 2, b.getLsbD 1, b.getLsbD 0]

/-- What a chip-select pulse is found to be at its rising edge. -/
inductive Judged
  | noFrame
  | error
  | good (code : Byte) (payload : List Byte)
  deriving DecidableEq, Repr

/-- R185 on the whole bytes clocked. -/
def judgeBytes (bs : List Byte) : Judged :=
  match bs with
  | code :: n :: rest =>
    if 14 < n.toNat then .error
    else if rest.length < n.toNat + 1 then .error
    else if rest.getD n.toNat 0#8 = crc8 (code :: n :: rest.take n.toNat) then .good code (rest.take n.toNat)
    else .error
  | _ => .error

/-- A pulse without an SCK edge is not a frame (R184); any other is judged by R185 and R186 on the bits sampled at the falling
edges of SCK, one with a rising edge alone on none. -/
def judgePulse (sck : Option (List Bool)) : Judged :=
  match sck with
  | none => .noFrame
  | some bits => judgeBytes (bytesOfBits bits)

/-- A request frame as sent (section 10.5). -/
def requestBytes (code : Byte) (payload : List Byte) : List Byte :=
  let body := code :: byteOf payload.length :: payload
  body ++ [crc8 body]

/-- The request codes of the request table (section 10.5). -/
def knownCodes : List Byte :=
  [0x00, 0x01, 0x02, 0x03, 0x10, 0x20, 0x21, 0x22, 0x23, 0x30, 0x31, 0x40, 0x41, 0x42, 0x50, 0x51, 0x52, 0x53, 0x54,
   0x60, 0x70, 0x71, 0x72, 0x73]

/-- The group of a request code (section 10.5): its upper digit. -/
def groupOfCode (code : Byte) : Nat := code.toNat / 16

/-! ### The configuration image (section 9.6) -/

abbrev Image := Vector Byte 52

/-- The factory default image (section 9.6; pattern table of R159). -/
def factoryImage : Image := padBytes 52
  ([0x99, 0x3F, 40, 45, 6, 16, 0x03, 0xC0, 38, 100, 32, 75, 15, 10, 10, 0xFF, 0xAF, 0x11, 0x41]
   ++ [0x11, 30, 20, 62] ++ [0x02, 15, 15, 62] ++ [0x13, 15, 15, 62] ++ [0x30, 5, 5, 49]
   ++ [0x35, 10, 10, 99] ++ [0x22, 50, 50, 62] ++ [0x01, 20, 20, 62] ++ [0x02, 10, 20, 62] ++ [0])

namespace Image

variable (img : Image)

/-- Byte `i` of the image, 00h beyond it. -/
def byte (i : Nat) : Nat := (img.toList.getD i 0#8).toNat

def lockDriveTime : Time := msec (img.byte 0 % 64 * 10)
def retryCount : Nat := img.byte 0 / 64
def deadlockEnable : Bool := img.byte 1 % 2 == 1
def childLink : Bool := img.byte 1 / 2 % 2 == 1
def comfortEnable : Bool := img.byte 1 / 4 % 2 == 1
def passiveEnable : Bool := img.byte 1 / 8 % 2 == 1
def nconf : Nat := img.byte 1 / 16 % 8
def releasePulse : Time := msec (img.byte 2 * 10)
def relockTime : Time := sec (img.byte 3)
def retainedTime : Time := sec (img.byte 4 * 10)
def pseal : Nat := img.byte 5
def pdetect : Nat := img.byte 6 * 256 + img.byte 7
def kFactor : Nat := img.byte 8
def reversalDistance : Nat := img.byte 9 * 4
def window : Nat := img.byte 10 * 8
def holdTime : Time := msec (img.byte 11 * 20)
def searchTimeout : Nat := img.byte 12
def eventDelay : Time := msec (img.byte 13)
def parkDelay : Time := sec (img.byte 14)
def wakeBit (i : Nat) : Bool := img.byte 15 / 2 ^ i % 2 == 1
def commitCount : Nat := img.byte 51

/-- The permission mask of a port (bytes 16 to 18, R189). -/
def permission (p : Port) : Nat :=
  match p with
  | .body => img.byte 16
  | .radio => img.byte 17
  | .restraint => img.byte 18

/-- The fields of a pattern table entry (R159). -/
def flashes (i : Nat) : Nat := img.byte (19 + 4 * i) % 8
def chirps (i : Nat) : Nat := img.byte (19 + 4 * i) / 16 % 4
def onTime (i : Nat) : Time := msec (img.byte (20 + 4 * i) * 10)
def offTime (i : Nat) : Time := msec (img.byte (21 + 4 * i) * 10)
def divider (i : Nat) : Nat := img.byte (22 + 4 * i)

/-- Byte `i` of the image with every field limited to its range (R181, section 9.6). -/
def limitedByte (i : Nat) : Nat :=
  let b := img.byte i
  let pd := clampNat img.pdetect 256 2047
  match i with
  | 0 => img.retryCount * 64 + clampNat (b % 64) 10 60
  | 1 => clampNat img.nconf 2 6 * 16 + b % 16
  | 2 => clampNat b 20 80
  | 3 => if b = 0 then 0 else clampNat b 15 120
  | 4 => clampNat b 0 60
  | 5 => clampNat b 4 64
  | 6 => pd / 256
  | 7 => pd % 256
  | 8 => clampNat b 13 77
  | 9 => clampNat b 25 200
  | 10 => clampNat b 2 128
  | 11 => clampNat b 40 150
  | 12 => clampNat b 5 50
  | 13 => clampNat b 0 50
  | 14 => clampNat b 2 60
  | 15 | 16 | 17 | 18 | 51 => b
  | _ =>
    match (i - 19) % 4 with
    | 0 => b / 16 % 4 * 16 + b % 8
    | 1 | 2 => clampNat b 5 50
    | _ => b

def limited : Image := padBytes 52 ((List.range 52).map fun i => byteOf (img.limitedByte i))

/-- The image with another commit count (R181). -/
def withCount (n : Nat) : Image := img.set 51 (byteOf n)

/-- The 13 bytes from `13 * i` on (R169). -/
def part (i : Nat) : Content := padBytes 13 (img.toList.drop (13 * i))

end Image

/-! ### Rows of the array (R168, section 9.6) -/

abbrev LRow := Fin 35
abbrev PRow := Fin 48

/-- The check byte of a physical row (R168, R183). -/
def rowCheck (id gen : Byte) (payload : Content) : Byte := crc8 (id :: gen :: payload.toList)

/-- The sixteen bytes a program writes (R172). -/
def rowBytes (l : LRow) (gen : Byte) (payload : Content) : PhysRow :=
  .bytes (byteOf l.val) gen payload (rowCheck (byteOf l.val) gen payload)

/-- The claim a physical row makes: its logical row, generation and payload (R168). -/
def PhysRow.claim : PhysRow → Option (LRow × Byte × Content)
  | .bytes id gen payload check =>
    if h : id.toNat < 35 then
      if check = rowCheck id gen payload then some (⟨id.toNat, h⟩, gen, payload) else none
    else none
  | _ => none

/-- A claim of generation `a` is newer than one of generation `b` (R177). -/
def newer (a b : Byte) : Bool := 1 ≤ (a - b).toNat && (a - b).toNat ≤ 127

def Win.index : Win → Nat
  | .w1 => 0
  | .w2 => 1
  | .w3 => 2
  | .w4 => 3

def SlotId.index : SlotId → Nat
  | .s0 => 0
  | .s1 => 1
  | .s2 => 2
  | .s3 => 3
  | .s4 => 4
  | .s5 => 5

/-- The logical row of the STATE record (R169). -/
def stateRow : LRow := 4

/-- The logical row of a fob slot (R169). -/
def SlotId.row (k : SlotId) : LRow := Fin.ofNat 35 (5 + k.index)

/-- The `r`-th of the six profile rows of a window, counted from 0 (R113, R169). -/
def Win.row (w : Win) (r : Nat) : LRow := Fin.ofNat 35 (11 + 6 * w.index + r)

/-- The first Ref entry and the number of entries of the `r`-th profile row (R113). -/
def refSpan (r : Nat) : Nat × Nat :=
  match r with
  | 0 => (0, 5)
  | 1 => (5, 6)
  | 2 => (11, 6)
  | 3 => (17, 6)
  | 4 => (23, 6)
  | _ => (29, 3)

/-- The content of a lost row (R178); rows 0 to 3 take the factory image (R179). -/
def defaultContent (l : LRow) : Content :=
  if l.val ≤ 3 then factoryImage.part l.val
  else if 5 ≤ l.val ∧ l.val ≤ 10 then padBytes 13 [0, 0, 0, 0, 0, 0, 0, 0, 0xFF]
  else padBytes 13 []

end Sys2Proof
end

