-- ==== Sys2Proof/WellFormed.lean ====
section
/-! DEFINITION. Which command terms stand for something that can reach the part: operands inside the ranges of the rules. -/

namespace Sys2Proof

/-- A request payload has at most 14 bytes (R185). -/
def payloadOk (payload : List Byte) : Bool := payload.length ≤ 14

/-- A pulse of CS that carries no well-formed frame: a frame error (R186), or no frame at all, since a pulse without an SCK
edge has no row of its own (R184; log 8). -/
def carriesNoRequest (sck : Option (List Bool)) : Bool :=
  match judgePulse sck with
  | .good _ _ => false
  | _ => true

/-- The operands of a command are inside their ranges: a raw sample of R1, payloads of R185, a pulse without a well-formed frame
for FRAME_ERROR (R184, R186), and a code outside the request table for UNKNOWN_REQUEST (R188). -/
def Instr.wellFormed : Instr → Bool
  | .vbatSample raw => raw ≤ 32767
  | .setContext _ _ b | .lockRequest _ _ b | .tailgateRelease _ _ b | .childLock _ _ b | .rearInhibit _ _ b
  | .windowRequest _ _ b | .normalizeWindow _ _ b | .accessTelegram _ _ b | .readSearch _ _ b | .searchResult _ _ b
  | .enrolFob _ _ b | .removeFob _ _ b | .suspendFob _ _ b | .reinstateFob _ _ b | .setFobMode _ _ b
  | .crashNotice _ _ b | .crashClear _ _ b | .stageConfig _ _ b | .commitConfig _ _ b | .nop _ _ b | .readStatus _ _ b
  | .clearEvents _ _ b | .setEventEnable _ _ b | .restart _ _ b => payloadOk b
  | .frameError _ _ sck => carriesNoRequest sck
  | .unknownRequest _ _ code b => !knownCodes.contains code && payloadOk b
  | _ => true

end Sys2Proof
end

