-- ==== Sys2Proof/Config.lean ====
section
/-! DEFINITION. The free values of the KD2460 model: what the spec leaves open. Nothing in Lean can evaluate them. -/

namespace Sys2Proof

/-- The rise in percent of a window bridge's duty in the `t`-th µs after its entry into DRIVE, `t` from 0: R77 gives a rise
from 40 % to 100 % over 80 ms and not its shape (log 11). -/
opaque Config.softStartRise : Time → Nat

/-- For the `n`-th Hall edge at which the pinch computer reports PINCH and the same edge ends the run otherwise: is the
report taken first? R94 allows either order (log 10). -/
opaque Config.pinchTakenFirst : Nat → Bool

end Sys2Proof
end

