-- ==== Sys2Proof/Machine/State.lean ====
section
/-! DEFINITION. The state of the KD2460 as plain data: every record the spec gives the part, the pins, the queue of waiting
commands and the model's clock. -/

namespace Sys2Proof.Machine

/-! ### Mode controller (R199, R200) -/

inductive Mode | starting | run | park
  deriving DecidableEq, Repr

inductive ResetCause | powerOn | brownOut | restart
  deriving DecidableEq, Repr

/-- The park idle timer (R200): stopped at zero, running, or at its limit with PARK_BLOCKED offered. -/
inductive ParkTimer
  | stopped
  | running (due : Time)
  | atLimit
  deriving DecidableEq, Repr

structure Sys where
  mode : Mode
  /-- Brown-out reset in force (R3). -/
  inReset : Bool
  cause : ResetCause
  restartPending : Bool
  /-- DSIDE as read in STARTING (R199). -/
  dside : DriverSide
  /-- End of the start-up scan (R177), absent once taken. -/
  scanDue : Timer
  /-- End of STARTING (R199), absent once taken. -/
  startDue : Timer
  park : ParkTimer
  deriving DecidableEq, Repr

/-! ### Supply monitor (R1 to R4) -/

inductive Band | normal | under | over
  deriving DecidableEq, Repr

structure Supply where
  /-- The last raw samples in order of arrival, at most eight (R1). -/
  samples : List Nat
  /-- V_f in mV; absent while undefined (R1). -/
  vf : Option Nat
  band : Band
  budget : Nat
  sampleDue : Time
  deriving DecidableEq, Repr

/-! ### Context unit (R6 to R9) -/

inductive Ignition | off | acc | run
  deriving DecidableEq, Repr

inductive Speed | standstill | moving
  deriving DecidableEq, Repr

structure Ctx where
  ignition : Ignition
  speed : Speed
  fresh : Bool
  staleDue : Timer
  retainedDue : Timer
  deriving DecidableEq, Repr

/-! ### Drive arbiter (R10, R13) -/

/-- Authority class. -/
inductive Cls | comfort | access | occupant | crash
  deriving DecidableEq, Repr

inductive Dir | lock | unlock | deadlock | engage | disengage | release | up | down
  deriving DecidableEq, Repr

/-- Requester names of drive entries, groups and movements (R13, R34, R65). -/
inductive Source
  | bodyPort | radioPort | restraintPort | fob | passive | keyCylinder | centralButton | autoRelock | ignition | crash
  | childButton | tgButton | switchDriver | switchLocal | comfort | normalize
  deriving DecidableEq, Repr

/-- Mode of a window movement (R65). -/
inductive WMode
  | manual
  | auto
  | target (t : Nat)
  deriving DecidableEq, Repr

structure Entry where
  act : Actuator
  dir : Dir
  cls : Cls
  source : Source
  seq : Word32
  waiting : List Nat
  /-- Windows only. -/
  mode : Option WMode
  holdReported : Bool
  deriving DecidableEq, Repr

structure Drive where
  act : Actuator
  dir : Dir
  cls : Cls
  source : Source
  seq : Word32
  waiting : List Nat
  mode : Option WMode
  deriving DecidableEq, Repr

structure Arb where
  queue : List Entry
  running : List Drive
  holds : List Actuator
  seq : Word32
  deriving DecidableEq, Repr

/-- An output stage (R10). -/
inductive Stage
  | off
  | drive (d : Dir)
  | brake
  deriving DecidableEq, Repr

structure Stages where
  locks : Doors Stage
  children : Sides Stage
  release : Stage
  windows : Wins Stage
  deriving DecidableEq, Repr

def Stages.get (t : Stages) : Actuator → Stage
  | .lock l => t.locks.get l
  | .child c => t.children.get c
  | .release => t.release
  | .window w => t.windows.get w

def Stages.set (t : Stages) (a : Actuator) (x : Stage) : Stages :=
  match a with
  | .lock l => { t with locks := t.locks.set l x }
  | .child c => { t with children := t.children.set c x }
  | .release => { t with release := x }
  | .window w => { t with windows := t.windows.set w x }

/-! ### Latch controller (R24 to R53) -/

inductive LatchState | unlocked | locked | deadlocked
  deriving DecidableEq, Repr

inductive DriveFault | none | noConfirm | openLoad | short
  deriving DecidableEq, Repr

/-- A drive phase (R24, R54); computed, see `State.latchPhase`. -/
inductive Phase | idle | queued | driving | settling
  deriving DecidableEq, Repr

structure LatchRec where
  state : LatchState
  ajar : Ajar
  position : LockPos
  attempts : Nat
  fault : DriveFault
  heat : Nat
  hot : Bool
  /-- The 5 s cooling timer (R33). -/
  coolDue : Timer
  /-- The drive time of the energized period (R28). -/
  driveDue : Timer
  /-- The 40 ms of SETTLING (R29). -/
  settleDue : Timer
  /-- The 20 ms of a brake hold (R16). -/
  brakeDue : Timer
  /-- Drive time and retry count read at the grant (R28). -/
  driveTime : Time
  retries : Nat
  /-- An open-load report was given for the energized period just ended (R12). -/
  openLoad : Bool
  deriving DecidableEq, Repr

inductive ReleaseOutcome | none | opened | noOpen | openLoad | short
  deriving DecidableEq, Repr

structure ReleaseRec where
  /-- The pulse time (R53). -/
  pulseDue : Timer
  /-- The watch: IDLE when absent, WATCHING with its 1000 ms timer otherwise (R53). -/
  watchDue : Timer
  last : ReleaseOutcome
  deriving DecidableEq, Repr

inductive Action
  | lockAll | unlockAll | unlockDriver | unlockDoor | deadlockAll | lockTg | unlockTg | crashUnlock | childEngage
  | childDisengage
  deriving DecidableEq, Repr

structure Group where
  id : Nat
  source : Source
  port : Option Port
  cls : Cls
  action : Action
  members : List Actuator
  outstanding : List Actuator
  failed : List Actuator
  overruled : List Actuator
  pattern : Option (Fin 8)
  deriving DecidableEq, Repr

structure GroupTable where
  entries : List Group
  nextId : Nat
  last : Ports (Option Group)
  deriving DecidableEq, Repr

structure FobPress where
  slot : SlotId
  button : KeyDir
  due : Time
  deriving DecidableEq, Repr

structure KeyPress where
  armed : KeyDir
  due : Time
  deriving DecidableEq, Repr

structure Presses where
  key : Option KeyPress
  fob : Option FobPress
  relockDue : Timer
  deriving DecidableEq, Repr

/-! ### Child lock unit (R54 to R63) -/

structure ChildRec where
  state : ChildPos
  position : ChildPos
  attempts : Nat
  fault : DriveFault
  driveDue : Timer
  settleDue : Timer
  retries : Nat
  openLoad : Bool
  deriving DecidableEq, Repr

structure ChildUnit where
  recs : Sides ChildRec
  rearInhibit : Bool
  effective : Sides Bool
  deriving DecidableEq, Repr

/-! ### Window controller (R65 to R91) -/

inductive RunState | stopped | queued | runUp | runDown | brake | reversing | faulted
  deriving DecidableEq, Repr

inductive Norm | learned | positionLost | unlearned
  deriving DecidableEq, Repr

inductive NormPhase | none | normUp | normDown
  deriving DecidableEq, Repr

inductive WDir | up | down
  deriving DecidableEq, Repr

inductive StopCause
  | none | target | released | stopRequest | top | bottom | pinch | blocked | revoked | timeout | hallFault | crash
  | overcurrent
  deriving DecidableEq, Repr

inductive WFault | none | hallFault | overcurrent | normFailed
  deriving DecidableEq, Repr

structure WindowRec where
  run : RunState
  nextDir : Option WDir
  pending : Option StopCause
  norm : Norm
  normPhase : NormPhase
  p : Nat
  pmax : Option Nat
  mode : Option WMode
  source : Option Source
  cls : Option Cls
  reversals : Nat
  restricted : Bool
  lastStop : StopCause
  fault : WFault
  lastPinch : Option Nat
  /-- The 8000 ms run timer (R77). -/
  runDue : Timer
  /-- The 40 ms of a brake (R81). -/
  brakeDue : Timer
  /-- The instant of the entry into DRIVE of this run (R69, R77). -/
  driveFrom : Time
  /-- Edges counted in this run (R69, R79). -/
  edges : Nat
  /-- The last edge counted in this run (R79). -/
  lastEdge : Time
  /-- The wrong-direction count (R69). -/
  wrong : Nat
  /-- The 150 ms test is armed (R69). -/
  noPulseArmed : Bool
  /-- Pseal read at the start of the UP run, for R79 (R77). -/
  sealDist : Nat
  /-- The fault a pending stop leads to (R69, R88). -/
  pendingFault : WFault
  deriving DecidableEq, Repr

structure ChanRec where
  position : SwitchPos
  waiting : Bool
  deriving DecidableEq, Repr

/-! ### Pinch computer (R92, R104) -/

structure RunRec where
  n : Nat
  s : Option Nat
  sStart : Option Nat
  count : Nat
  pseal : Nat
  pdetect : Nat
  k : Nat
  nconf : Nat
  dist : Nat
  absolute : Bool
  restricted : Bool
  inRange : Bool
  learn : Bool
  /-- Sum and pulse count of each zone (R111). -/
  zones : Vector (Nat × Nat) 32
  edgeTime : Time
  deriving DecidableEq, Repr

inductive RevOutcome | none | complete | interrupted
  deriving DecidableEq, Repr

structure RevRec where
  active : Bool
  origin : Nat
  dist : Nat
  absolute : Bool
  endPos : Nat
  rel : Int
  outcome : RevOutcome
  cause : StopCause
  deriving DecidableEq, Repr

structure PinchRec where
  run : Option RunRec
  rev : RevRec
  deriving DecidableEq, Repr

/-! ### Access unit (R114, R127, R133) -/

inductive FobState | empty | active | suspended | invalid
  deriving DecidableEq, Repr

inductive UnlockMode | selective | global
  deriving DecidableEq, Repr

inductive Verdict | none | accepted | resynced | repeated | stale | resyncPending | suspended
  deriving DecidableEq, Repr

inductive Button | lock | unlock | tailgate
  deriving DecidableEq, Repr

structure LastPress where
  button : Button
  counter : Word32
  time : Time
  repeatSeen : Bool
  deriving DecidableEq, Repr

structure Fob where
  state : FobState
  ident : Word32
  counter : Word32
  ceiling : Word32
  resync : Option Word32
  mode : UnlockMode
  comfort : Bool
  failures : Nat
  verdict : Verdict
  press : Option LastPress
  deriving DecidableEq, Repr

inductive SearchState | none | inFlight | ended
  deriving DecidableEq, Repr

inductive Origin | flUnlock | flLock | frUnlock | frLock | tg
  deriving DecidableEq, Repr

inductive SearchOutcome | found | notFound | timeout | crash
  deriving DecidableEq, Repr

inductive Zone | outsideFL | outsideFR | outsideRear | inside
  deriving DecidableEq, Repr

/-- Result codes (R192). -/
inductive Result
  | ok | queued | merged | clamped | noPrevious | frameError | starting | unknownRequest | notPermitted | badArgument
  | busy | crashActive | overruled | doorOpen | ignitionState | moving | inhibited | notNormalized | disabled
  | unknownFob | fobSuspended | stale | resyncPending | repeated | late | slotInUse | duplicate | checkMismatch
  deriving DecidableEq, Repr

/-- The action result of a search (R133). -/
inductive SearchAction
  | none
  | noFob
  | zoneMismatch
  | keyInside
  | code (r : Result)
  deriving DecidableEq, Repr

structure SearchRec where
  state : SearchState
  seq : Byte
  origin : Option Origin
  /-- The timeout read at the start, in units of 10 ms (R133). -/
  timeout : Option Nat
  due : Timer
  outcome : Option SearchOutcome
  slot : Option SlotId
  zone : Option Zone
  inside : Option Bool
  action : SearchAction
  group : Nat
  deriving DecidableEq, Repr

/-- A press that the held-press tracker follows (R127): phase COMFORT or HOLDING. -/
structure Held where
  slot : SlotId
  button : Button
  comfort : Bool
  gapDue : Time
  deriving DecidableEq, Repr

structure Tracker where
  /-- IDLE when absent. -/
  held : Option Held
  eligible : Bool
  /-- The hold time read at the last accepted new press (R127, R128); kept in IDLE (log 43). -/
  holdTime : Time
  deriving DecidableEq, Repr

/-! ### Crash unit (R147, R148) -/

inductive LineState | idle | low | fault
  deriving DecidableEq, Repr

structure CrashUnit where
  latched : Bool
  severity : Nat
  line : LineState
  count : Nat
  /-- The rising edge that ended the last valid pulse (R148); read only while the pulse count stands, so its value after a
  reset, 0, shows nowhere (log 43). -/
  lastRise : Time
  /-- The falling edge of the low being measured (R148). -/
  lowStart : Time
  /-- The release of the last reset, from which on the line is watched (R148). -/
  watchedFrom : Time
  /-- A crash decoded in STARTING (R148, R157). -/
  held : Bool
  deriving DecidableEq, Repr

/-! ### Feedback unit (R159 to R167) -/

inductive PlayPhase | flashOn | flashOff | chirpOn | chirpOff
  deriving DecidableEq, Repr

structure Playback where
  phase : PlayPhase
  flash : Nat
  chirp : Nat
  flashes : Nat
  onTime : Time
  offTime : Time
  chirps : Nat
  divider : Nat
  due : Time
  deriving DecidableEq, Repr

structure Feedback where
  queue : List (Fin 8)
  /-- IDLE when absent. -/
  playing : Option Playback
  deriving DecidableEq, Repr

/-! ### Store (R168 to R182) -/

inductive RowCond | inUse | free | retired
  deriving DecidableEq, Repr

structure Shadow where
  content : Content
  current : PRow
  generation : Byte
  isVolatile : Bool
  deriving DecidableEq, Repr

structure Program where
  row : LRow
  content : Content
  generation : Byte
  target : PRow
  due : Time
  deriving DecidableEq, Repr

structure Store where
  array : Vector PhysRow 48
  map : Vector RowCond 48
  shadows : Vector Shadow 35
  /-- The rows the last scan found lost (R178). -/
  lost : List LRow
  queue : List LRow
  program : Option Program
  /-- OPEN with the staging image when present, CLOSED otherwise (R180). -/
  staging : Option Image
  deriving DecidableEq, Repr

/-! ### Port units and event unit (R184, R190, R196) -/

structure RespSlot where
  echo : Byte
  result : Result
  payload : List Byte
  deriving DecidableEq, Repr

structure PortUnit where
  receiving : Bool
  slot : RespSlot
  /-- The response frame built at the last fall of CS (R191). -/
  sdo : List Byte
  deriving DecidableEq, Repr

structure EventRec where
  captured : Word32
  mask : Word32
  delayDue : Timer
  deriving DecidableEq, Repr

/-! ### The whole state -/

structure State where
  pending : List Instr
  now : Time
  pins : Pins
  sys : Sys
  supply : Supply
  ctx : Ctx
  arb : Arb
  stages : Stages
  latches : Doors LatchRec
  release : ReleaseRec
  groups : GroupTable
  presses : Presses
  child : ChildUnit
  windows : Wins WindowRec
  profiles : Wins (Vector Nat 32)
  chans : Chans ChanRec
  comfort : Wins Bool
  pinch : Wins PinchRec
  fobs : Slots Fob
  search : SearchRec
  tracker : Tracker
  crash : CrashUnit
  feedback : Feedback
  store : Store
  ports : Ports PortUnit
  events : Ports EventRec
  ties : Nat
  deriving DecidableEq, Repr

/-- Reasons to stop with a fault. The spec stops the part nowhere (INVENTORY.md, Faults). -/
inductive Fault
  /-- Raised by nobody: every command has a next state. Safe. -/
  | unused
  deriving DecidableEq, Repr

/-- Reasons to refuse a command. -/
inductive Refusal
  /-- Raised by `exec` for a command that has no meaning yet; no arm raises it now. Safe. -/
  | notModelled (mnemonic : String)
  deriving DecidableEq, Repr

/-! ### The records after a reset -/

/-- A latch record before its derivation in STARTING (R25; state, ajar and position are log 6's). -/
def LatchRec.reset : LatchRec :=
  { state := .unlocked, ajar := .closed, position := .unlocked, attempts := 0, fault := .none, heat := 0, hot := false,
    coolDue := none, driveDue := none, settleDue := none, brakeDue := none, driveTime := 0, retries := 0,
    openLoad := false }

/-- A child lock record before its derivation (R55; state and position are log 6's). -/
def ChildRec.reset : ChildRec :=
  { state := .disengaged, position := .disengaged, attempts := 0, fault := .none, driveDue := none, settleDue := none,
    retries := 0, openLoad := false }

/-- A window record before its derivation (R66; normalization, Pmax and the instants and the seal distance of a run not begun
are log 6's). -/
def WindowRec.reset : WindowRec :=
  { run := .stopped, nextDir := none, pending := none, norm := .unlearned, normPhase := .none, p := 1024, pmax := none,
    mode := none, source := none, cls := none, reversals := 0, restricted := false, lastStop := .none, fault := .none,
    lastPinch := none, runDue := none, brakeDue := none, driveFrom := 0, edges := 0, lastEdge := 0, wrong := 0,
    noPulseArmed := false, sealDist := 0, pendingFault := .none }

/-- R92: phase NONE and outcome NONE. The spec gives no other field a value for reset; origin, end position, relative count and
captured D hold 0 and absolute holds no, the model's choice (log 6). -/
def RevRec.reset : RevRec :=
  { active := false, origin := 0, dist := 0, absolute := false, endPos := 0, rel := 0, outcome := .none, cause := .none }

/-- An EMPTY slot (R115, R144). -/
def Fob.reset : Fob :=
  { state := .empty, ident := 0, counter := 0, ceiling := 0, resync := none, mode := .selective, comfort := false,
    failures := 0, verdict := .none, press := none }

/-- R133 after any reset. -/
def SearchRec.reset : SearchRec :=
  { state := .none, seq := 0, origin := none, timeout := none, due := none, outcome := none, slot := none, zone := none,
    inside := none, action := .none, group := 0 }

/-- The shadows before the scan: the lost-row defaults (log 6). -/
def Shadow.initial (l : LRow) : Shadow :=
  { content := defaultContent l, current := Fin.castLE (by decide) l, generation := 0, isVolatile := false }

/-- The whole table built from its row numbers. -/
def tableOf {α : Type} (n : Nat) (f : Fin n → α) : Vector α n := ⟨⟨List.ofFn f⟩, by simp⟩

/-- The store after a reset (R169, R170, R176, R180). The row map has no value before the end of the scan (R178); until then
the home rows hold IN_USE and the spares FREE, the model's choice (log 6). -/
def Store.reset (array : Vector PhysRow 48) : Store :=
  { array := array, map := tableOf 48 fun r => if r.val < 35 then .inUse else .free,
    shadows := tableOf 35 Shadow.initial, lost := [], queue := [], program := none, staging := none }

/-- The enable masks after a reset (R196). -/
def EventRec.reset (p : Port) : EventRec :=
  { captured := 0
    mask := match p with
      | .body => 0x0FFFFFFF#32
      | .radio => 0x081FC00F#32
      | .restraint => 0x08180001#32
    delayDue := none }

/-- R190 after any reset. -/
def PortUnit.reset : PortUnit :=
  { receiving := false, slot := { echo := 0, result := .noPrevious, payload := [] }, sdo := [] }

/-- Every record at its value after a reset with cause `cause` at instant `t` (each chapter's "after any reset"); the queue,
the pins and the array are what lies outside RAM. The spec gives the hold time and the last rising edge of the crash line no
value for reset; they hold 1500 ms and 0, the model's choice (log 43). -/
def State.afterReset (cause : ResetCause) (t : Time) (pending : List Instr) (pins : Pins) (array : Vector PhysRow 48) :
    State :=
  { pending := pending
    now := t
    pins := pins
    sys := { mode := .starting, inReset := false, cause := cause, restartPending := false, dside := .left,
             scanDue := some (t + msec 20), startDue := some (t + msec 30), park := .stopped }
    supply := { samples := [], vf := none, band := .normal, budget := 0, sampleDue := t + msec 5 }
    ctx := { ignition := .off, speed := .standstill, fresh := true, staleDue := none, retainedDue := none }
    arb := { queue := [], running := [], holds := [], seq := 0 }
    stages := { locks := Doors.all .off, children := Sides.all .off, release := .off, windows := Wins.all .off }
    latches := Doors.all LatchRec.reset
    release := { pulseDue := none, watchDue := none, last := .none }
    groups := { entries := [], nextId := 1, last := Ports.all none }
    presses := { key := none, fob := none, relockDue := none }
    child := { recs := Sides.all ChildRec.reset, rearInhibit := false, effective := Sides.all false }
    windows := Wins.all WindowRec.reset
    profiles := Wins.all (Vector.replicate 32 0)
    chans := Chans.all { position := .neutral, waiting := false }
    comfort := Wins.all false
    pinch := Wins.all { run := none, rev := RevRec.reset }
    fobs := Slots.all Fob.reset
    search := SearchRec.reset
    tracker := { held := none, eligible := false, holdTime := msec 1500 }
    crash := { latched := false, severity := 0, line := if pins.crashLow then .fault else .idle, count := 0,
               lastRise := 0, lowStart := 0, watchedFrom := t, held := false }
    feedback := { queue := [], playing := none }
    store := Store.reset array
    ports := Ports.all PortUnit.reset
    events := { body := EventRec.reset .body, radio := EventRec.reset .radio, restraint := EventRec.reset .restraint }
    ties := 0 }

/-- The levels of the inputs at `State.reset`: everything at rest, DSIDE LEFT (log 5). -/
def Pins.atRest : Pins :=
  { ajar := Doors.all .closed, latchpos := Doors.all .unlocked, chpos := Sides.all .disengaged, keyLock := false,
    keyUnlock := false, ladders := Chans.all (.band .neutral), crashLow := false, dside := .left,
    cs := Ports.all false }

/-- The part right after a power-on reset with inputs at rest and an erased array (R199; log 5). -/
def State.reset : State := State.afterReset .powerOn 0 [] Pins.atRest (Vector.replicate 48 .erased)

end Sys2Proof.Machine
end

