-- ==== Sys2Proof/Machine/Update.lean ====
section
/-! DEFINITION. One named update per block of the state, and the updates of one cell of a table. -/

namespace Sys2Proof.Machine

namespace State

def withPending (s : State) (x : List Instr) : State := { s with pending := x }
def withNow (s : State) (x : Time) : State := { s with now := x }
def withPins (s : State) (x : Pins) : State := { s with pins := x }
def withSys (s : State) (x : Sys) : State := { s with sys := x }
def withSupply (s : State) (x : Supply) : State := { s with supply := x }
def withCtx (s : State) (x : Ctx) : State := { s with ctx := x }
def withArb (s : State) (x : Arb) : State := { s with arb := x }
def withStages (s : State) (x : Stages) : State := { s with stages := x }
def withLatches (s : State) (x : Doors LatchRec) : State := { s with latches := x }
def withRelease (s : State) (x : ReleaseRec) : State := { s with release := x }
def withGroups (s : State) (x : GroupTable) : State := { s with groups := x }
def withPresses (s : State) (x : Presses) : State := { s with presses := x }
def withChild (s : State) (x : ChildUnit) : State := { s with child := x }
def withWindows (s : State) (x : Wins WindowRec) : State := { s with windows := x }
def withProfiles (s : State) (x : Wins (Vector Nat 32)) : State := { s with profiles := x }
def withChans (s : State) (x : Chans ChanRec) : State := { s with chans := x }
def withComfort (s : State) (x : Wins Bool) : State := { s with comfort := x }
def withPinch (s : State) (x : Wins PinchRec) : State := { s with pinch := x }
def withFobs (s : State) (x : Slots Fob) : State := { s with fobs := x }
def withSearch (s : State) (x : SearchRec) : State := { s with search := x }
def withTracker (s : State) (x : Tracker) : State := { s with tracker := x }
def withCrash (s : State) (x : CrashUnit) : State := { s with crash := x }
def withFeedback (s : State) (x : Feedback) : State := { s with feedback := x }
def withStore (s : State) (x : Store) : State := { s with store := x }
def withPorts (s : State) (x : Ports PortUnit) : State := { s with ports := x }
def withEvents (s : State) (x : Ports EventRec) : State := { s with events := x }
def withTies (s : State) (x : Nat) : State := { s with ties := x }

end State

def State.setStage (s : State) (a : Actuator) (x : Stage) : State := s.withStages (s.stages.set a x)
def State.modLatch (s : State) (l : Latch) (f : LatchRec → LatchRec) : State :=
  s.withLatches (s.latches.set l (f (s.latches.get l)))
def State.modChild (s : State) (c : Side) (f : ChildRec → ChildRec) : State :=
  s.withChild { s.child with recs := s.child.recs.set c (f (s.child.recs.get c)) }
def State.modWindow (s : State) (w : Win) (f : WindowRec → WindowRec) : State :=
  s.withWindows (s.windows.set w (f (s.windows.get w)))
def State.modChan (s : State) (c : Chan) (f : ChanRec → ChanRec) : State :=
  s.withChans (s.chans.set c (f (s.chans.get c)))
def State.modPinch (s : State) (w : Win) (f : PinchRec → PinchRec) : State :=
  s.withPinch (s.pinch.set w (f (s.pinch.get w)))
def State.modFob (s : State) (k : SlotId) (f : Fob → Fob) : State := s.withFobs (s.fobs.set k (f (s.fobs.get k)))
def State.modPort (s : State) (p : Port) (f : PortUnit → PortUnit) : State :=
  s.withPorts (s.ports.set p (f (s.ports.get p)))
def State.modEvents (s : State) (p : Port) (f : EventRec → EventRec) : State :=
  s.withEvents (s.events.set p (f (s.events.get p)))
def State.setComfort (s : State) (w : Win) (b : Bool) : State := s.withComfort (s.comfort.set w b)
def State.setProfile (s : State) (w : Win) (v : Vector Nat 32) : State := s.withProfiles (s.profiles.set w v)

end Sys2Proof.Machine
end

