-- ==== Sys2Proof/Machine/Flags.lean ====
section
/-! DEFINITION. The event unit (R196, R197): event kinds, their capture, the summary byte and the attention line, and the
wake that every offered kind causes in PARK (R202). -/

namespace Sys2Proof.Machine

/-- The 28 event kinds (R196). -/
inductive Ev
  | powerOn | wake | parkBlocked | contextStale | lockChanged | lockFault | childChanged | childFault | thermalHold
  | windowStopped | pinchReversal | windowFault | normalizationChanged | driveRevoked | telegramAccepted
  | telegramRejected | searchPending | searchEnded | keyInside | crashLatched | crashCleared | supplyBand | storeRetired
  | storeExhausted | recordLost | configCommitted | configRejected | frameError
  deriving DecidableEq, Repr

/-- The position of a kind in every event mask (R196). -/
def Ev.pos : Ev → Nat
  | .powerOn => 0
  | .wake => 1
  | .parkBlocked => 2
  | .contextStale => 3
  | .lockChanged => 4
  | .lockFault => 5
  | .childChanged => 6
  | .childFault => 7
  | .thermalHold => 8
  | .windowStopped => 9
  | .pinchReversal => 10
  | .windowFault => 11
  | .normalizationChanged => 12
  | .driveRevoked => 13
  | .telegramAccepted => 14
  | .telegramRejected => 15
  | .searchPending => 16
  | .searchEnded => 17
  | .keyInside => 18
  | .crashLatched => 19
  | .crashCleared => 20
  | .supplyBand => 21
  | .storeRetired => 22
  | .storeExhausted => 23
  | .recordLost => 24
  | .configCommitted => 25
  | .configRejected => 26
  | .frameError => 27

/-- The mask with the one bit of a kind. -/
def Ev.bit (e : Ev) : Word32 := 1#32 <<< e.pos

/-- Bits 28 to 31 of a mask are written as 0 (R196). -/
def usedBits : Word32 := 0x0FFFFFFF#32

/-- The kinds of each group of the summary byte (R196). -/
def groupBits (g : Nat) : Word32 :=
  match g with
  | 0 => 0x0000000F#32
  | 1 => 0x000001F0#32
  | 2 => 0x00003E00#32
  | 3 => 0x0007C000#32
  | 4 => 0x00180000#32
  | 5 => 0x00200000#32
  | 6 => 0x07C00000#32
  | _ => 0x08000000#32

/-- Capture on one port under its enable mask (R196). -/
def EventRec.capture (e : Ev) (r : EventRec) : EventRec := { r with captured := r.captured ||| (e.bit &&& r.mask) }

/-- The kinds both captured and enabled (R197). -/
def EventRec.outstanding (r : EventRec) : Word32 := r.captured &&& r.mask

/-- The summary byte (R197). -/
def EventRec.summary (r : EventRec) : Byte :=
  byteOf ((List.range 8).foldl (fun n g => if r.outstanding &&& groupBits g = 0 then n else n + 2 ^ g) 0)

/-- The attention line, true when active (R197). -/
def EventRec.attention (r : EventRec) : Bool := r.outstanding != 0 && r.delayDue.isNone

/-- A kind captured on every port under its mask (R196). -/
def captureAll (e : Ev) (s : State) : State :=
  s.withEvents { body := s.events.body.capture e, radio := s.events.radio.capture e
                 restraint := s.events.restraint.capture e }

/-- The return from PARK, before anything else is done: 5 ms sampling, WAKE offered, park idle timer stopped (R202). -/
def wake (s : State) : State :=
  match s.sys.mode with
  | .park =>
    captureAll .wake ((s.withSys { s.sys with mode := .run, park := .stopped }).withSupply
      { s.supply with sampleDue := s.now + msec 5 })
  | _ => s

/-- "X is captured" (00, Conventions): the kind offered to the event unit; in PARK it wakes the part first (R202). -/
def offer (e : Ev) (s : State) : State := captureAll e (wake s)

/-- FRAME_ERROR is offered to the port concerned alone (R186, R196). -/
def offerFrameError (p : Port) (s : State) : State := (wake s).modEvents p (EventRec.capture .frameError)

end Sys2Proof.Machine
end

