-- ==== Sys2Proof/Machine/Ops.lean ====
section
/-! DEFINITION. The shared operations: the clock, the live configuration, writes of persistent rows, the views computed from
the state, resets, park conditions, and the forms that every command takes. -/

namespace Sys2Proof.Machine

/-! ### The clock (log 2) -/

/-- `dt` µs pass. -/
def advance (dt : Time) (s : State) : State := s.withNow (s.now + dt)

/-- The clock stands at `t` or later. -/
def reach (t : Time) (s : State) : State := s.withNow (max s.now t)

/-! ### The live configuration (R169, R179) -/

/-- The content of a logical row's shadow (R169). -/
def State.row (s : State) (l : LRow) : Content := s.store.shadows[l].content

/-- The live configuration image: rows 0..3 in order (R169). -/
def State.cfg (s : State) : Image :=
  padBytes 52 ((s.row 0).toList ++ (s.row 1).toList ++ (s.row 2).toList ++ (s.row 3).toList)

/-! ### Views of the state -/

/-- Speed as every testing rule reads it: MOVING while stale (R7). -/
def State.effSpeed (s : State) : Speed := if s.ctx.fresh then s.ctx.speed else .moving

/-- The driver's door latch and window (00, Fixed Names). -/
def State.driverLatch (s : State) : Latch :=
  match s.sys.dside with
  | .left => .fl
  | .right => .fr

def State.driverWin (s : State) : Win :=
  match s.sys.dside with
  | .left => .w1
  | .right => .w2

/-- The running drive and the queued entry of an actuator; there is at most one of each (R13). -/
def State.drive? (s : State) (a : Actuator) : Option Drive := s.arb.running.find? (·.act == a)
def State.entry? (s : State) (a : Actuator) : Option Entry := s.arb.queue.find? (·.act == a)
def State.held (s : State) (a : Actuator) : Bool := s.arb.holds.contains a

/-- The cost of a drive in units (R5). -/
def actCost : Actuator → Nat
  | .window _ => 4
  | .lock _ => 2
  | .release => 2
  | .child _ => 1

def actIsWindow : Actuator → Bool
  | .window _ => true
  | _ => false

/-- Units in use and window units in use (R5). -/
def State.units (s : State) : Nat := (s.arb.running.map (fun d => actCost d.act)).sum
def State.windowUnits (s : State) : Nat := ((s.arb.running.filter fun d => actIsWindow d.act).map (fun d => actCost d.act)).sum

/-- The drive phase of a lock motor or child actuator (R24, R54). -/
def State.phase (s : State) (a : Actuator) : Phase :=
  if (s.drive? a).isSome then
    match s.stages.get a with
    | .drive _ => .driving
    | _ => .settling
  else if (s.entry? a).isSome then .queued else .idle

/-! ### Writes of persistent rows (R169, R170) -/

/-- The shadow of a row with new content. -/
def State.setRow (s : State) (l : LRow) (c : Content) : State :=
  s.withStore { s.store with shadows := s.store.shadows.set l { s.store.shadows[l] with content := c } }

/-- A write queued by its owner: the shadow changes at once, and the row joins the store queue unless it waits there or is
volatile (R170). A queued write wakes the part (R202). -/
def storeWrite (l : LRow) (c : Content) (s : State) : State :=
  if s.store.shadows[l].isVolatile then s.setRow l c
  else
    let s := (wake s).setRow l c
    if s.store.queue.contains l then s else s.withStore { s.store with queue := s.store.queue ++ [l] }

/-- A byte of the STATE row replaced and the row written (section 9.6). The other bytes are written back as the shadow holds
them, one loaded outside its list included (R178), the model's choice (log 46). -/
def writeStateByte (i : Fin 13) (b : Byte) (s : State) : State := storeWrite stateRow ((s.row stateRow).set i b) s

/-- Bit `n` of a byte set to `v`. -/
def setBit (b : Byte) (n : Nat) (v : Bool) : Byte :=
  if v then b ||| (1#8 <<< n) else b &&& ~~~(1#8 <<< n)

/-- The deadlock bit of a side-door latch in byte 3 of the STATE row (section 9.6). -/
def deadBit : Latch → Option Nat
  | .fl => some 0
  | .fr => some 1
  | .rl => some 2
  | .rr => some 3
  | .tg => none

/-- The bit of a child copy in byte 4 of the STATE row (section 9.6). -/
def childBit : Side → Nat
  | .left => 0
  | .right => 1

/-- The deadlock bits of the STATE row; a value outside 00h..0Fh is read as the default (R178). -/
def State.deadlockBits (s : State) : Byte :=
  let b := (s.row stateRow)[3]
  if b.toNat ≤ 15 then b else 0

/-- The child copies of the STATE row; a value outside 00h..03h is read as the default (R178). -/
def State.childCopies (s : State) : Byte :=
  let b := (s.row stateRow)[4]
  if b.toNat ≤ 3 then b else 0

/-- A latch takes a state: the deadlock bit of a side-door latch follows it, each change of the bit being written (R24). -/
def setLatchState (l : Latch) (v : LatchState) (s : State) : State :=
  let s := s.modLatch l fun r => { r with state := v }
  match deadBit l with
  | none => s
  | some n =>
    let dead : Bool := v == LatchState.deadlocked
    if s.deadlockBits.getLsbD n == dead then s else writeStateByte 3 (setBit s.deadlockBits n dead) s

/-- The state a debounced position stands for. -/
def positionState : LockPos → LatchState
  | .locked => .locked
  | .unlocked => .unlocked

/-- A state consistent with the debounced position is kept; another one follows the position (R31). -/
def reconcileLatch (l : Latch) (s : State) : State :=
  let r := s.latches.get l
  match r.position, r.state with
  | .locked, .unlocked => setLatchState l .locked s
  | .unlocked, .unlocked => s
  | .unlocked, _ => setLatchState l .unlocked s
  | .locked, _ => s

/-! ### Resets (R3, R176, R199) -/

/-- The array after a reset: the row of an interrupted program is unreadable (R176). -/
def Store.arrayAfterReset (t : Store) : Vector PhysRow 48 :=
  match t.program with
  | some g => t.array.set g.target .unreadable
  | none => t.array

/-- The part right after the release of a reset (R199). -/
def resetPart (cause : ResetCause) (s : State) : State :=
  State.afterReset cause s.now s.pending s.pins s.store.arrayAfterReset

/-- Brown-out reset in force: RAM lost, every stage OFF, sampling every 5 ms (R3). -/
def brownOutHold (s : State) : State :=
  let t := resetPart .brownOut s
  t.withSys { t.sys with inReset := true, scanDue := none, startDue := none }

/-! ### Park conditions (R200) -/

def State.trackerInComfort (s : State) : Bool :=
  match s.tracker.held with
  | some h => h.comfort
  | none => false

def State.quietEvents (s : State) : Bool :=
  Port.list.all fun p => (s.events.get p).outstanding == 0

def State.parkConditions (s : State) : Bool :=
  s.sys.mode == .run && s.ctx.ignition == .off && s.ctx.retainedDue.isNone
    && s.arb.queue.isEmpty && s.arb.running.isEmpty && s.arb.holds.isEmpty
    && s.groups.entries.isEmpty && s.search.state != .inFlight && !s.trackerInComfort
    && s.presses.relockDue.isNone && s.release.watchDue.isNone
    && s.store.queue.isEmpty && s.store.program.isNone && s.feedback.queue.isEmpty
    && s.quietEvents && Port.list.all (fun p => !s.pins.cs.get p) && !s.sys.restartPending

/-- The park idle timer after a step: it runs while the conditions hold, from zero when they hold again, with the park delay
read when it starts (R200; log 20). -/
def refreshPark (s : State) : State :=
  if s.parkConditions then
    match s.sys.park with
    | .stopped => s.withSys { s.sys with park := .running (s.now + s.cfg.parkDelay) }
    | _ => s
  else s.withSys { s.sys with park := .stopped }

/-! ### The forms of a command -/

/-- The outcome of a command. -/
abbrev Out := Host.Outcome State Fault Refusal

/-- What a command does once the clock and the pins are set: nothing in brown-out reset (log 4). -/
def finish (act : State → State) (s : State) : Out :=
  .next (if s.sys.inReset then s else refreshPark (act s))

/-- A report or an edge from outside, `dt` after the step before it. -/
def onReport (dt : Time) (act : State → State) (s : State) : Out := finish act (advance dt s)

/-- A debounced change of an input: the pin takes the level. In STARTING the command is also the change of an input that has
not settled, since the first reading takes that level (R199, step 1; log 18), and nothing else happens. -/
def onInput (dt : Time) (pin : Pins → Pins) (act : State → State) (s : State) : Out :=
  onReport dt (fun s => if s.sys.mode = .starting then s else act s) (s.withPins (pin s.pins))

/-- A debounced change of an input with a wake mask bit: in PARK it is ignored unless the bit is set, and then wakes the part
first (R202): a return to idle as well, after which nothing more happens (R132; log 40). -/
def onMaskedInput (dt : Time) (bit : Nat) (pin : Pins → Pins) (act : State → State) (s : State) : Out :=
  onInput dt pin
    (fun s => if s.sys.mode = .park then (if s.cfg.wakeBit bit then act (wake s) else s) else act s) s

/-- An expiry of a timer of the part: without effect when the timer is stopped (log 3). -/
def onTimer (due : Timer) (act : State → State) (s : State) : Out :=
  match due with
  | none => .next s
  | some t => .next (refreshPark (act (reach t s)))

end Sys2Proof.Machine
end

