-- ==== Sys2Proof/Machine/Feedback.lean ====
section
/-! DEFINITION. The feedback unit (R159 to R167): pattern requests, playback, the crash effect and the two outputs. -/

namespace Sys2Proof.Machine

/-- Playback of pattern `i` as it begins at `t`: the five fields read from the live configuration, FLASH_ON when F > 0, else
CHIRP_ON when C > 0; none for a duration of 0 (R159, R160). The chirp number is 0 before the first chirp, and the flash number 0
where F is 0 (log 43). -/
def playOf (img : Image) (i : Fin 8) (t : Time) : Option Playback :=
  let pb : Playback :=
    { phase := .flashOn, flash := 1, chirp := 0, flashes := img.flashes i, onTime := img.onTime i
      offTime := img.offTime i, chirps := img.chirps i, divider := img.divider i, due := t + img.onTime i }
  if 0 < img.flashes i then some pb
  else if 0 < img.chirps i then some { pb with phase := .chirpOn, flash := 0, chirp := 1, due := t + msec 60 }
  else none

/-- The head of the queue begins; an entry of duration 0 leaves at once (R164). -/
def beginHead (img : Image) (t : Time) : List (Fin 8) → Feedback
  | [] => { queue := [], playing := none }
  | i :: rest =>
    match playOf img i t with
    | some pb => { queue := i :: rest, playing := some pb }
    | none => beginHead img t rest

/-- Playback of the queue begins with its head. -/
def startPlayback (s : State) : State := s.withFeedback (beginHead s.cfg s.now s.feedback.queue)

/-- A pattern request (R163): a full queue has its tail replaced (R165), and an empty one begins at once, but in STARTING. -/
def patternRequest (i : Fin 8) (s : State) : State :=
  match s.feedback.queue with
  | [] =>
    let s := s.withFeedback { s.feedback with queue := [i] }
    if s.sys.mode = .starting then s else startPlayback s
  | q => s.withFeedback { s.feedback with queue := (if 4 ≤ q.length then q.dropLast else q) ++ [i] }

/-- The phase that follows, none at the end of the playback (R160). -/
def Playback.next (pb : Playback) (t : Time) : Option Playback :=
  match pb.phase with
  | .flashOn => some { pb with phase := .flashOff, due := t + pb.offTime }
  | .flashOff =>
    if pb.flash < pb.flashes then some { pb with phase := .flashOn, flash := pb.flash + 1, due := t + pb.onTime }
    else if 0 < pb.chirps then some { pb with phase := .chirpOn, chirp := 1, due := t + msec 60 }
    else none
  | .chirpOn => some { pb with phase := .chirpOff, due := t + msec 60 }
  | .chirpOff =>
    if pb.chirp < pb.chirps then some { pb with phase := .chirpOn, chirp := pb.chirp + 1, due := t + msec 60 } else none

/-- The end of a phase (R160); at the end of the playback the head leaves and the next entry begins (R164). -/
def endPhase (pb : Playback) (s : State) : State :=
  match pb.next s.now with
  | some pb' => s.withFeedback { s.feedback with playing := some pb' }
  | none => startPlayback (s.withFeedback { s.feedback with queue := s.feedback.queue.tail })

/-- The crash effect on the feedback unit (R155, R166). -/
def silence (s : State) : State := s.withFeedback { queue := [], playing := none }

/-- INDICATOR (R161) and SOUNDER (R162), true when active. -/
def State.indicator (s : State) : Bool := s.feedback.playing.any (·.phase == .flashOn)
def State.sounder (s : State) : Bool := s.feedback.playing.any (·.phase == .chirpOn)

/-- Half-period of the SOUNDER wave in µs: (n + 1) ticks of 4 µs (R162). -/
def Playback.halfPeriod (pb : Playback) : Time := (pb.divider + 1) * 4

/-- The level of the wave `t` after the start of a CHIRP_ON phase, true when high: it changes every half-period (R162). -/
def Playback.wave (pb : Playback) (t : Time) : Bool := t / pb.halfPeriod % 2 == 0

/-- The level of SOUNDER, true when high: the wave during the 60 ms of a CHIRP_ON phase, low otherwise (R162). -/
def State.sounderLevel (s : State) : Bool :=
  s.feedback.playing.any fun pb =>
    pb.phase == .chirpOn && s.now < pb.due && pb.wave (s.now + msec 60 - pb.due)

/-- PATTERN_PHASE_END (R160, R164). -/
def execPatternPhaseEnd (s : State) : Out :=
  match s.feedback.playing with
  | none => .next s
  | some pb => onTimer (some pb.due) (endPhase pb) s

end Sys2Proof.Machine
end

