-- ==== Sys2Proof/Machine/Groups.lean ====
section
/-! DEFINITION. The group table (R34, R38 to R40) and the start of the auto-relock timer at a completion (R50). -/

namespace Sys2Proof.Machine

/-- How one member of a group ended (R38). -/
inductive Settled | success | failed | overruled
  deriving DecidableEq, Repr

def Action.isChild : Action → Bool
  | .childEngage | .childDisengage => true
  | _ => false

def Action.isUnlock : Action → Bool
  | .unlockAll | .unlockDriver | .unlockDoor => true
  | _ => false

/-- A member leaves outstanding (R38); a group that does not wait on it is unchanged. -/
def Group.settle (a : Actuator) (o : Settled) (g : Group) : Group :=
  if g.outstanding.contains a then
    let g' := { g with outstanding := g.outstanding.filter (· != a) }
    match o with
    | .success => g'
    | .failed => { g' with failed := g.failed ++ [a] }
    | .overruled => { g' with overruled := g.overruled ++ [a] }
  else g

def State.group? (s : State) (id : Nat) : Option Group := s.groups.entries.find? (·.id == id)

/-- The group table with `f` applied to the group of an id. -/
def modGroup (id : Nat) (f : Group → Group) (s : State) : State :=
  s.withGroups { s.groups with entries := s.groups.entries.map fun g => if g.id = id then f g else g }

def removeGroup (id : Nat) (s : State) : State :=
  s.withGroups { s.groups with entries := s.groups.entries.filter fun g => g.id != id }

/-- The id after one (R34): 255 is followed by 1. -/
def idAfter (n : Nat) : Nat := if 255 ≤ n then 1 else n + 1

/-- The first id from `n` on that no open group holds; `fuel` open groups can be passed over (R34). -/
def freshId (used : List Nat) : Nat → Nat → Nat
  | 0, n => n
  | fuel + 1, n => if used.contains n then freshId used fuel (idAfter n) else n

def State.newGroupId (s : State) : Nat :=
  let used := s.groups.entries.map (·.id)
  freshId used used.length s.groups.nextId

/-- The group joins the table and the counter moves to the id after the one taken (R34). -/
def openGroup (g : Group) (s : State) : State :=
  s.withGroups { s.groups with entries := s.groups.entries ++ [g], nextId := idAfter g.id }

/-- Table space (R35). -/
def State.tableFull (s : State) : Bool := 6 ≤ s.groups.entries.length

/-- The auto-relock timer starts at the completion of a class-2 unlock without failure (R50). -/
def startRelock (g : Group) (s : State) : State :=
  if g.cls = .access ∧ g.action.isUnlock ∧ g.failed = [] ∧ s.cfg.relockTime ≠ 0 ∧ s.ctx.ignition = .off
      ∧ Latch.list.all (fun l => (s.latches.get l).ajar == .closed) then
    s.withPresses { s.presses with relockDue := some (s.now + s.cfg.relockTime) }
  else s

/-- The event of a completion (R39). -/
def Group.event (g : Group) : Ev :=
  match g.action.isChild, g.failed.isEmpty with
  | false, true => .lockChanged
  | false, false => .lockFault
  | true, true => .childChanged
  | true, false => .childFault

/-- Completion (R39): event, pattern, last-completed-group record of the originating port (R40), removal. -/
def completeGroup (g : Group) (s : State) : State :=
  let s := offer g.event s
  let s :=
    match g.pattern with
    | some i => patternRequest (if g.failed.isEmpty then i else 4) s
    | none => s
  let s :=
    match g.port with
    | some p => s.withGroups { s.groups with last := s.groups.last.set p (some g) }
    | none => s
  startRelock g (removeGroup g.id s)

/-- The group of an id completes when its outstanding set is empty (R38, R39). -/
def testCompletion (id : Nat) (s : State) : State :=
  match s.group? id with
  | some g => if g.outstanding.isEmpty then completeGroup g s else s
  | none => s

/-- One group takes the outcome of one of its members (R38). -/
def settleGroup (a : Actuator) (o : Settled) (id : Nat) (s : State) : State :=
  testCompletion id (modGroup id (Group.settle a o) s)

/-- A waiting list handed back, settled in list order (R38). -/
def settleList (a : Actuator) (o : Settled) (ids : List Nat) (s : State) : State :=
  ids.foldl (fun s id => settleGroup a o id s) s

end Sys2Proof.Machine
end

