-- ==== Sys2Proof/Machine/Pinch.lean ====
section
/-! DEFINITION. The pinch computer (R92 to R113): run computations, the Hall-period and stall tests, reversal records and the
learning of reference profiles. -/

namespace Sys2Proof.Machine

/-! ### Run computations (R93, R94) -/

/-- Within the learning supply window; an undefined V_f is not (R92, R93). -/
def supplyInRange (vf : Option Nat) : Bool :=
  match vf with
  | some v => 10500 ≤ v && v ≤ 15500
  | none => false

/-- The record of a run computation as it begins (R93). -/
def newRun (w : Win) (s : State) : RunRec :=
  let r := s.windows.get w
  { n := 0, s := none, sStart := none, count := 0, pseal := s.cfg.pseal, pdetect := s.cfg.pdetect, k := s.cfg.kFactor
    nconf := s.cfg.nconf, dist := s.cfg.reversalDistance, absolute := r.norm == .learned, restricted := r.restricted
    inRange := supplyInRange s.supply.vf, learn := r.norm == .learned && !r.restricted
    zones := Vector.replicate 32 (0, 0), edgeTime := s.now }

def beginRun (w : Win) (s : State) : State := s.modPinch w fun c => { c with run := some (newRun w s) }

/-- A run computation ends and its record is discarded (R94). -/
def endRun (w : Win) (s : State) : State := s.modPinch w fun c => { c with run := none }

/-- A new V_f outside the learning supply window marks every active record (R96, note 3). -/
def markSupply (s : State) : State :=
  if supplyInRange s.supply.vf then s
  else
    let mark (c : PinchRec) : PinchRec := { c with run := c.run.map fun r => { r with inRange := false } }
    s.withPinch { w1 := mark s.pinch.w1, w2 := mark s.pinch.w2, w3 := mark s.pinch.w3, w4 := mark s.pinch.w4 }

/-! ### One handed edge (R95 to R102, R111) -/

/-- The compensated period (R96). -/
def compensate (t vf : Nat) : Nat := min 65535 (t * clampNat vf 9000 16000 / 13500)

/-- Smoothing (R98). -/
def smooth (s tn : Nat) : Nat := (3 * s + tn + 2) / 4

/-- The threshold (R101). -/
def RunRec.threshold (r : RunRec) (ref : Nat) : Nat :=
  let th := max 80 (ref * r.k / 256)
  if r.restricted then 2 * th else th

/-- Detection at a position after blanking (R99). -/
def RunRec.active (r : RunRec) (p : Nat) : Bool :=
  25 ≤ r.n && (!r.absolute || (r.pseal < p && p ≤ r.pdetect))

/-- The zone of a position, 0..31 (R99). -/
def zoneOf (p : Nat) : Fin 32 := Fin.ofNat 32 (min 31 (p / 64))

/-- The reference of a tested pulse (R100). -/
def RunRec.reference (r : RunRec) (profile : Vector Nat 32) (p : Nat) : Nat :=
  if r.absolute ∧ profile[zoneOf p] ≠ 0 then profile[zoneOf p] else r.sStart.getD 0

/-- Period, compensation and smoothing of an edge (R95 to R98). -/
def RunRec.measure (r : RunRec) (now vf : Nat) : RunRec × Nat :=
  let tn := compensate (min 65535 (now - r.edgeTime)) vf
  let n := min 65535 (r.n + 1)
  let s :=
    match r.s with
    | none => tn
    | some s => smooth s tn
  ({ r with n := n, s := some s, sStart := if n = 24 then some s else r.sStart, edgeTime := now }, tn)

/-- Gathering for learning (R111); a zone holds at most 64 pulses (R92). -/
def RunRec.gather (r : RunRec) (sense : HallSense) (p : Nat) (moved : Bool) (tn : Nat) : RunRec :=
  let r := if sense = .opening then { r with learn := false } else r
  let z := r.zones[zoneOf p]
  if 25 ≤ r.n ∧ moved ∧ z.2 < 64 then { r with zones := r.zones.set (zoneOf p) (z.1 + tn, z.2 + 1) } else r

/-- The count after a pulse (R99, R101, R102). -/
def RunRec.judge (r : RunRec) (profile : Vector Nat 32) (p : Nat) : RunRec :=
  let ref := r.reference profile p
  if r.active p then
    if ref + r.threshold ref < r.s.getD 0 then { r with count := r.count + 1 } else { r with count := 0 }
  else { r with count := 0 }

/-- An edge handed to an active record: the record after it. -/
def RunRec.edge (r : RunRec) (now vf : Nat) (profile : Vector Nat 32) (sense : HallSense) (p : Nat) (moved : Bool) :
    RunRec :=
  let m := r.measure now vf
  (m.1.gather sense p moved m.2).judge profile p

/-- The count has reached the captured Nconf (R102). -/
def RunRec.confirmed (r : RunRec) : Bool := 0 < r.count && r.nconf ≤ r.count

/-- An edge of an UP run in DRIVE handed to the pinch computer (R95). -/
def handEdge (w : Win) (sense : HallSense) (moved : Bool) (s : State) : State :=
  s.modPinch w fun c =>
    { c with run := c.run.map fun r =>
        r.edge s.now (s.supply.vf.getD 0) (s.profiles.get w) sense (s.windows.get w).p moved }

/-- PINCH is reported at the edge just handed (R102). -/
def State.pinchConfirmed (s : State) (w : Win) : Bool := (s.pinch.get w).run.any RunRec.confirmed

/-- The stall test on an offered stall (R103). -/
def State.stallIsPinch (s : State) (w : Win) : Bool :=
  match (s.pinch.get w).run with
  | some r => !r.absolute || (s.windows.get w).p ≤ r.pdetect
  | none => false

/-! ### Reversal records (R104 to R107) -/

/-- The protection state at a PINCH of a window that is not restricted (R104). -/
def startReversal (w : Win) (s : State) : State :=
  let r := s.windows.get w
  let n := min 3 (r.reversals + 1)
  let absolute := (s.pinch.get w).run.any (·.absolute)
  let dist := ((s.pinch.get w).run.map (·.dist)).getD 0
  let s := s.modWindow w fun r => { r with reversals := n, restricted := r.restricted || n == 3 }
  (offer .pinchReversal s).modPinch w fun c =>
    { c with rev := { active := true, origin := r.p, dist := dist, absolute := absolute
                      endPos := if absolute then min (r.p + dist) (r.pmax.getD 2047) else 0
                      rel := 0, outcome := .none, cause := .none } }

/-- A pulse passed to an ACTIVE reversal record (R104, R106). -/
def passPulse (w : Win) (sense : HallSense) (s : State) : State :=
  s.modPinch w fun c =>
    if c.rev.active ∧ c.rev.absolute = false then
      { c with rev := { c.rev with rel := if sense = .opening then c.rev.rel + 1 else c.rev.rel - 1 } }
    else c

/-- The reversal end at a pulse of the down run (R105, R106). -/
def State.reversalEnd (s : State) (w : Win) (sense : HallSense) : Bool :=
  let v := (s.pinch.get w).rev
  if v.absolute then sense == .opening && v.endPos ≤ (s.windows.get w).p else v.dist ≤ v.rel

/-- The reversal outcome by the stop cause recorded (R107). -/
def RevRec.finish (v : RevRec) (cause : StopCause) : RevRec :=
  match cause with
  | .pinch | .bottom => { v with active := false, outcome := .complete, cause := .none }
  | _ => { v with active := false, outcome := .interrupted, cause := cause }

/-! ### Learning (R110 to R113) -/

/-- A Ref entry after a complete zone (R112). -/
def learnEntry (ref sum : Nat) : Nat :=
  let a := clampNat (sum / 64) 200 20000
  if ref = 0 then a
  else if max a ref - min a ref ≤ ref / 4 then (7 * ref + a + 4) / 8
  else ref

/-- The profile after the run (R112). -/
def RunRec.learned (r : RunRec) (profile : Vector Nat 32) : Vector Nat 32 :=
  tableOf 32 fun z => if r.zones[z].2 = 64 then learnEntry profile[z] r.zones[z].1 else profile[z]

/-- The Ref entries `from` on, `count` of them, as stored (section 9.6). -/
def refBytes (profile : Vector Nat 32) (span : Nat × Nat) : List Byte :=
  ((profile.toList.drop span.1).take span.2).flatMap be16

/-- The stored normalization: never POSITION_LOST (R67). -/
def Norm.stored : Norm → Byte
  | .unlearned => 0
  | _ => 1

/-- The content of the `r`-th profile row of a window (R113, section 9.6). -/
def State.profileRow (s : State) (w : Win) (r : Nat) : Content :=
  let r0 := s.windows.get w
  let refs := refBytes (s.profiles.get w) (refSpan r)
  padBytes 13 (if r = 0 then be16 (r0.pmax.getD 0) ++ [r0.norm.stored] ++ refs else refs)

/-- A profile row of a window is queued with its current content. -/
def writeProfileRow (w : Win) (r : Nat) (s : State) : State := storeWrite (w.row r) (s.profileRow w r) s

/-- A new profile: each row in which an entry changed is queued (R113). The rule gives several changed rows no order; they join
the store queue in ascending row order, the model's choice (log 45). -/
def updateProfile (w : Win) (new : Vector Nat 32) (s : State) : State :=
  let old := s.profiles.get w
  (List.range 6).foldl
    (fun s r => if refBytes old (refSpan r) = refBytes new (refSpan r) then s else writeProfileRow w r s)
    (s.setProfile w new)

/-- The decision on learning at a TOP stop (R110). -/
def learnAtTop (w : Win) (s : State) : State :=
  match (s.pinch.get w).run with
  | some r =>
    if r.learn ∧ r.inRange ∧ (s.windows.get w).norm = .learned then updateProfile w (r.learned (s.profiles.get w)) s
    else s
  | none => s

end Sys2Proof.Machine
end

