-- ==== Sys2Proof/Machine/Runs.lean ====
section
/-! DEFINITION. What the owners do at a grant (R28, R53, R57, R77), at an abort (R32) and at a revocation (R82). -/

namespace Sys2Proof.Machine

/-! ### Lock motors -/

/-- Heat rises at each energized period (R33). -/
def LatchRec.heatUp (r : LatchRec) (now : Time) : LatchRec :=
  let h := min 20 (r.heat + 1)
  { r with heat := h, hot := r.hot || 12 ≤ h, coolDue := if r.heat = 0 then some (now + sec 5) else r.coolDue }

/-- The motor is energized: first attempt or retry (R28, R30). -/
def energizeLock (l : Latch) (d : Dir) (s : State) : State :=
  (s.modLatch l fun r =>
    { r.heatUp s.now with driveDue := some (s.now + r.driveTime), settleDue := none, openLoad := false }).setStage
    (.lock l) (.drive d)

/-- The grant of a lock motor entry (R28). -/
def grantLock (l : Latch) (d : Dir) (s : State) : State :=
  energizeLock l d
    (s.modLatch l fun r => { r with driveTime := s.cfg.lockDriveTime, retries := s.cfg.retryCount, attempts := 0 })

/-- An aborted drive (R16, R32): brake of 20 ms, the latch controller's activity stopped, state reconciled. -/
def abortLock (l : Latch) (s : State) : State :=
  reconcileLatch l
    ((s.modLatch l fun r =>
      { r with driveDue := none, settleDue := none, openLoad := false, brakeDue := some (s.now + msec 20) }).setStage
      (.lock l) .brake)

/-! ### Child actuators -/

/-- The actuator is energized for at most 120 ms (R57). -/
def energizeChild (c : Side) (d : Dir) (s : State) : State :=
  (s.modChild c fun r =>
    { r with driveDue := some (s.now + msec 120), settleDue := none, openLoad := false }).setStage (.child c) (.drive d)

/-- The grant of a child actuator entry (R57). -/
def grantChild (c : Side) (d : Dir) (s : State) : State :=
  energizeChild c d (s.modChild c fun r => { r with retries := s.cfg.retryCount, attempts := 0 })

/-! ### Tailgate release -/

/-- The grant of a RELEASE entry: pulse and watch (R53). -/
def grantRelease (s : State) : State :=
  let opened := (s.latches.get .tg).ajar = .opened
  (s.withRelease
    { pulseDue := some (s.now + s.cfg.releasePulse)
      watchDue := if opened then none else some (s.now + sec 1)
      last := if opened then .opened else s.release.last }).setStage .release (.drive .release)

/-! ### Windows -/

def WDir.dir : WDir → Dir
  | .up => .up
  | .down => .down

/-- A run starts (R77): bridge in DRIVE with soft start, run timer, guards armed, and for an UP run a new run computation. A
window in REVERSING stays REVERSING (R83). -/
def startRun (w : Win) (d : WDir) (s : State) : State :=
  let s := (s.modWindow w fun r =>
    { r with run := if r.run = .reversing then .reversing else (match d with | .up => .runUp | .down => .runDown)
             nextDir := none, runDue := some (s.now + sec 8), brakeDue := none, driveFrom := s.now, edges := 0
             lastEdge := s.now, wrong := 0, noPulseArmed := true }).setStage (.window w) (.drive d.dir)
  match d with
  | .up => beginRun w (s.modWindow w fun r => { r with sealDist := s.cfg.pseal })
  | .down => s

/-- The grant of a window entry (R77, R68). -/
def grantWindow (w : Win) (d : WDir) (mode : Option WMode) (source : Source) (cls : Cls) (s : State) : State :=
  startRun w d (s.modWindow w fun r =>
    { r with mode := mode, source := some source, cls := some cls
             p := if r.norm = .learned then r.p else 1024 })

/-- The bridge of a window goes to BRAKE for 40 ms; a brake in progress keeps its time (R23, R81). -/
def brakeWindow (w : Win) (s : State) : State :=
  match s.stages.windows.get w with
  | .brake => s
  | _ => (s.modWindow w fun r => { r with brakeDue := some (s.now + msec 40) }).setStage (.window w) .brake

/-- A revoked drive as the window controller handles it, `cause` being REVOKED or CRASH (R82; log 13). -/
def windowRevoked (w : Win) (cause : StopCause) (s : State) : State :=
  ((endRun w (brakeWindow w s)).modWindow w fun r =>
    { r with run := .brake, nextDir := none, pending := some (r.pending.getD cause), normPhase := .none, mode := none
             source := none, cls := none, runDue := none, noPulseArmed := false }).setComfort w false

/-- Duty in percent `t` µs after the entry into DRIVE, within the first 80 ms: it starts at 40, never falls and never passes 100
(R77); how it rises is a free value (log 11). -/
def softStart : Nat → Nat
  | 0 => 40
  | t + 1 => min 100 (softStart t + Config.softStartRise t)

/-- Duty in percent of a window bridge: the soft start for 80 ms, then 100 (R77); 0 outside DRIVE. -/
def State.duty (s : State) (w : Win) : Nat :=
  match s.stages.windows.get w with
  | .drive _ =>
    let t := s.now - (s.windows.get w).driveFrom
    if msec 80 ≤ t then 100 else softStart t
  | _ => 0

end Sys2Proof.Machine
end

