-- ==== Sys2Proof/Machine/Arbiter.lean ====
section
/-! DEFINITION. The drive arbiter (R13 to R23): the queue, the grant scan, revocation, preemption and end reports. -/

namespace Sys2Proof.Machine

/-- The rank of an authority class (00, Terms). -/
def Cls.rank : Cls → Nat
  | .comfort => 1
  | .access => 2
  | .occupant => 3
  | .crash => 4

/-! ### The queue (R13) -/

/-- Entry `a` stands before entry `b`: class descending, then sequence number ascending (R13). -/
def entryBefore (a b : Entry) : Bool :=
  b.cls.rank < a.cls.rank || (a.cls == b.cls && a.seq.toNat ≤ b.seq.toNat)

/-- The ordered place of an entry (R13). -/
def insertEntry (e : Entry) : List Entry → List Entry
  | [] => [e]
  | x :: xs => if entryBefore x e then x :: insertEntry e xs else e :: x :: xs

/-- A new queue; the sequence counter returns to 0 with an empty one (R13). -/
def setQueue (q : List Entry) (s : State) : State :=
  s.withArb { s.arb with queue := q, seq := if q.isEmpty then 0 else s.arb.seq }

def removeEntry (a : Actuator) (s : State) : State := setQueue (s.arb.queue.filter (·.act != a)) s

def removeDrive (a : Actuator) (s : State) : State :=
  s.withArb { s.arb with running := s.arb.running.filter (·.act != a) }

def addHold (a : Actuator) (s : State) : State :=
  if s.held a then s else s.withArb { s.arb with holds := s.arb.holds ++ [a] }

def removeHold (a : Actuator) (s : State) : State :=
  s.withArb { s.arb with holds := s.arb.holds.filter (· != a) }

/-! ### Revocation (R21, R23) -/

/-- The stop cause of a revocation: CRASH while the CRASH latch is set (R154). -/
def State.revocationCause (s : State) : StopCause := if s.crash.latched then .crash else .revoked

/-- A running window drive is revoked: it leaves the running list, its bridge brakes under a brake hold, the window
controller is told and DRIVE_REVOKED is captured (R23). -/
def revokeWindow (w : Win) (s : State) : State :=
  offer .driveRevoked (windowRevoked w s.revocationCause (addHold (.window w) (removeDrive (.window w) s)))

/-- The running window drives, youngest grant first. -/
def State.youngestWindows (s : State) : List Win :=
  (s.arb.running.filterMap fun d =>
    match d.act with
    | .window w => some w
    | _ => none).reverse

/-- Window drives are revoked one at a time until `enough` (R21, R23). -/
def revokeUntil (enough : State → Bool) : List Win → State → State
  | [], s => s
  | w :: ws, s => if enough s then s else revokeUntil enough ws (revokeWindow w s)

/-- Revocation after a fall of B or a band change to UNDER or OVER (R23). -/
def revokeForSupply (s : State) : State :=
  revokeUntil (fun s => s.supply.band == .normal && s.windowUnits + 4 ≤ s.supply.budget) s.youngestWindows s

/-! ### The grant scan (R18 to R21) -/

/-- The fit test (R20). -/
def State.fits (s : State) (e : Entry) : Bool :=
  if actIsWindow e.act then s.windowUnits + 8 ≤ s.supply.budget && s.supply.band == .normal
  else s.units + actCost e.act ≤ s.supply.budget

/-- The starvation guard (R20). -/
def State.starving (s : State) (e : Entry) : Bool :=
  !actIsWindow e.act && s.arb.running.isEmpty && s.supply.band != .under

/-- The owner is told of the grant and runs the stage (R20). -/
def startDrive (e : Entry) (s : State) : State :=
  match e.act with
  | .lock l => grantLock l e.dir s
  | .child c => grantChild c e.dir s
  | .release => grantRelease s
  | .window w => grantWindow w (match e.dir with | .up => .up | _ => .down) e.mode e.source e.cls s

/-- A grant (R20): the entry leaves the queue and its drive joins the end of the running list. -/
def grantEntry (e : Entry) (s : State) : State :=
  let s := removeEntry e.act s
  let d : Drive := { act := e.act, dir := e.dir, cls := e.cls, source := e.source, seq := e.seq, waiting := e.waiting
                     mode := e.mode }
  startDrive e (s.withArb { s.arb with running := s.arb.running ++ [d] })

/-- Passed over for HOT: THERMAL_HOLD is captured once for an entry (R19). -/
def reportHold (e : Entry) (s : State) : State :=
  if e.holdReported then s
  else
    offer .thermalHold (s.withArb { s.arb with
      queue := s.arb.queue.map fun x => if x.act = e.act then { x with holdReported := true } else x })

/-- Actuator busy (R19). -/
def State.busy (s : State) (e : Entry) : Bool := (s.drive? e.act).isSome || s.held e.act

/-- HOT (R19): classes 1 to 3 of a HOT lock motor. -/
def State.hotHeld (s : State) (e : Entry) : Bool :=
  match e.act with
  | .lock l => e.cls != .crash && (s.latches.get l).hot
  | _ => false

/-- Window in OVER (R19). -/
def State.overHeld (s : State) (e : Entry) : Bool := actIsWindow e.act && s.supply.band == .over

/-- One walk of the queue (R19 to R21). An entry that is both busy and HOT counts as passed over for being busy, so its hold
stays unreported (log 39). -/
def walk : List Entry → State → State
  | [], s => s
  | e :: rest, s =>
    if s.busy e then walk rest s
    else if s.hotHeld e then walk rest (reportHold e s)
    else if s.overHeld e then walk rest s
    else
      let s := if s.fits e then s else if e.cls = .crash then revokeUntil (·.fits e) s.youngestWindows s else s
      if s.fits e || s.starving e then walk rest (grantEntry e s) else s

/-- A grant scan: nothing in UNDER, otherwise one walk from the head (R18, R19). -/
def scan (s : State) : State := if s.supply.band = .under then s else walk s.arb.queue s

/-! ### Submission (R14 to R16) -/

structure Request where
  act : Actuator
  dir : Dir
  cls : Cls
  source : Source
  mode : Option WMode
  group : Option Nat
  deriving DecidableEq, Repr

/-- The arbiter's outcome (R14, R15). -/
inductive Answer | queued | merged | overruled
  deriving DecidableEq, Repr

/-- A first enqueue (R14): a new sequence number. -/
def joinQueue (r : Request) (s : State) : State :=
  let e : Entry := { act := r.act, dir := r.dir, cls := r.cls, source := r.source, seq := s.arb.seq
                     waiting := r.group.toList, mode := r.mode, holdReported := false }
  s.withArb { s.arb with queue := insertEntry e s.arb.queue, seq := s.arb.seq + 1 }

/-- The replacement of a queued entry (R14): its sequence number is kept and the other groups are handed back. -/
def replaceEntry (r : Request) (e : Entry) (s : State) : State :=
  let e' : Entry := { e with dir := r.dir, cls := r.cls, source := r.source, mode := r.mode
                             waiting := r.group.toList, holdReported := false }
  let s := s.withArb { s.arb with queue := insertEntry e' (s.arb.queue.filter (·.act != r.act)) }
  settleList r.act .overruled (e.waiting.filter fun g => !r.group.toList.contains g) s

/-- R14. -/
def enqueue (r : Request) (s : State) : State × Answer :=
  match s.entry? r.act with
  | none => (scan (joinQueue r s), .queued)
  | some e =>
    if e.cls.rank ≤ r.cls.rank then (scan (replaceEntry r e s), .queued) else (s, .overruled)

/-- A request merges with the running drive (R15). -/
def mergeDrive (r : Request) (s : State) : State :=
  s.withArb { s.arb with running := s.arb.running.map fun d =>
    if d.act = r.act then
      { d with waiting := d.waiting ++ r.group.toList.filter fun g => !d.waiting.contains g }
    else d }

/-- Preemption of a lock drive by a class-4 UNLOCK (R16). -/
def preempt (l : Latch) (d : Drive) (s : State) : State :=
  settleList (.lock l) .overruled d.waiting (abortLock l (addHold (.lock l) (removeDrive (.lock l) s)))

/-- An owner submits an entry (R14 to R16): on a running drive of the same direction it merges, whatever is queued (R15); the
UNLOCK of an ignition change too, which leaves a DEADLOCK entry behind a running UNLOCK drive in the queue (R49; log 47). -/
def submit (r : Request) (s : State) : State × Answer :=
  match s.drive? r.act with
  | none => enqueue r s
  | some d =>
    if d.dir = r.dir then (mergeDrive r s, .merged)
    else
      match r.act with
      | .lock l => if r.cls = .crash ∧ r.dir = .unlock then enqueue r (preempt l d s) else enqueue r s
      | _ => enqueue r s

/-! ### Ends (R16, R17, R22) -/

/-- An entry leaves the queue with its waiting groups handed back as overruled, and a scan follows (R14, R18). -/
def dismissEntry (e : Entry) (s : State) : State :=
  scan (settleList e.act .overruled e.waiting (removeEntry e.act s))

/-- A crash leaves no LOCK or DEADLOCK entry on a lock motor: one that stands behind a running UNLOCK drive, with which the
class-4 UNLOCK merged, goes as R153 lets a queued entry go (R152; log 38). -/
def dismissLocking (l : Latch) (s : State) : State :=
  match s.entry? (.lock l) with
  | some e => if e.dir = .lock ∨ e.dir = .deadlock then dismissEntry e s else s
  | none => s

/-- The window controller withdraws a queued entry (R17). -/
def withdraw (w : Win) (s : State) : State :=
  if (s.entry? (.window w)).isSome then scan (removeEntry (.window w) s) else s

/-- A lock drive with an empty waiting list reports its own end (R29). -/
def reportGroupless (d : Drive) (ok : Bool) (s : State) : State :=
  match d.act, d.waiting with
  | .lock _, [] => offer (if ok then .lockChanged else .lockFault) s
  | _, _ => s

/-- The end report of an owner (R22): the drive leaves, its waiting list is settled, a scan follows. -/
def endReport (a : Actuator) (ok : Bool) (s : State) : State :=
  match s.drive? a with
  | none => s
  | some d =>
    scan (reportGroupless d ok (settleList a (if ok then .success else .failed) d.waiting (removeDrive a s)))

/-- A brake hold ends with its bridge OFF, and a scan follows (R16, R18). -/
def endHold (a : Actuator) (s : State) : State := scan (removeHold a s)

/-- The window controller tells the arbiter the new direction, mode and source of a running drive (R15). -/
def tellDrive (w : Win) (d : WDir) (mode : Option WMode) (source : Option Source) (s : State) : State :=
  s.withArb { s.arb with running := s.arb.running.map fun x =>
    if x.act == Actuator.window w then { x with dir := d.dir, mode := mode, source := source.getD x.source } else x }

end Sys2Proof.Machine
end

