-- ==== Sys2Proof/Machine/Operands.lean ====
section
/-! DEFINITION. The operand bytes of requests and responses: result codes (R192), enumerations of the request payloads, and
the answer of an owner. -/

namespace Sys2Proof.Machine

/-- Result codes (R192). -/
def Result.code : Result → Byte
  | .ok => 0x00
  | .queued => 0x01
  | .merged => 0x02
  | .clamped => 0x03
  | .noPrevious => 0x10
  | .frameError => 0x11
  | .starting => 0x12
  | .unknownRequest => 0x20
  | .notPermitted => 0x21
  | .badArgument => 0x22
  | .busy => 0x23
  | .crashActive => 0x30
  | .overruled => 0x31
  | .doorOpen => 0x32
  | .ignitionState => 0x33
  | .moving => 0x34
  | .inhibited => 0x35
  | .notNormalized => 0x36
  | .disabled => 0x37
  | .unknownFob => 0x40
  | .fobSuspended => 0x41
  | .stale => 0x42
  | .resyncPending => 0x43
  | .repeated => 0x44
  | .late => 0x45
  | .slotInUse => 0x46
  | .duplicate => 0x47
  | .checkMismatch => 0x50

/-- QUEUED, MERGED and OK: the outcomes of an action that are no refusal (R128). -/
def Result.accepts : Result → Bool
  | .ok | .queued | .merged => true
  | _ => false

/-- The answer of an owner to a request: a result code and its payload (R190). -/
structure Reply where
  result : Result
  payload : List Byte
  deriving DecidableEq, Repr

/-- An answer that carries the result alone. -/
def Reply.of (r : Result) : Reply := { result := r, payload := [] }

/-- An owner's handling of a request taken on a port. -/
abbrev Owner := Port → List Byte → State → State × Reply

/-- A request refused without effect. -/
def refuse (r : Result) (s : State) : State × Reply := (s, Reply.of r)

def boolByte (b : Bool) : Byte := if b then 1 else 0

/-- 00h and 01h as no and yes. -/
def boolOf (b : Byte) : Option Bool :=
  if b = 0 then some false else if b = 1 then some true else none

/-- R6. -/
def ignitionOf (b : Byte) : Option Ignition :=
  if b = 0 then some .off else if b = 1 then some .acc else if b = 2 then some .run else none

/-- R6. -/
def speedOf (b : Byte) : Option Speed :=
  if b = 0 then some .standstill else if b = 1 then some .moving else none

/-- The class of an origin byte: COMFORT or OCCUPANT (R43, R52). -/
def originClass (b : Byte) : Option Cls :=
  if b = 0 then some .comfort else if b = 1 then some .occupant else none

/-- The pattern byte of LOCK_REQUEST: none of it is outside its list, or an index, or FFh for none (R43). -/
def patternOf (b : Byte) : Option (Option (Fin 8)) :=
  if b = 0xFF then some none
  else if h : b.toNat < 8 then some (some ⟨b.toNat, h⟩) else none

/-- A window byte, 00h to 03h (R84). -/
def winOf (b : Byte) : Option Win :=
  if b = 0 then some .w1 else if b = 1 then some .w2 else if b = 2 then some .w3 else if b = 3 then some .w4 else none

/-- A slot byte, 00h to 05h (R142). -/
def slotOf (b : Byte) : Option SlotId :=
  if b = 0 then some .s0 else if b = 1 then some .s1 else if b = 2 then some .s2
  else if b = 3 then some .s3 else if b = 4 then some .s4 else if b = 5 then some .s5 else none

/-- An unlock mode byte of a request (R143). -/
def modeOf (b : Byte) : Option UnlockMode :=
  if b = 0 then some .selective else if b = 1 then some .global else none

/-- A button byte (R117). -/
def buttonOf (b : Byte) : Option Button :=
  if b = 0 then some .lock else if b = 1 then some .unlock else if b = 2 then some .tailgate else none

/-- A zone byte (R136). -/
def zoneByteOf (b : Byte) : Option Zone :=
  if b = 0 then some .outsideFL else if b = 1 then some .outsideFR else if b = 2 then some .outsideRear
  else if b = 3 then some .inside else none

end Sys2Proof.Machine
end

