-- ==== Sys2Proof/Machine/Operations.lean ====
section
/-! DEFINITION. Lock, unlock and child operations as groups: the submission of the members (R36, R37), the refusals (R41,
R42) and the patterns of the group origins (R39). -/

namespace Sys2Proof.Machine

/-! ### Members and targets (R36, R37) -/

/-- The direction in which an action drives its members. -/
def Action.dir : Action → Dir
  | .lockAll | .lockTg => .lock
  | .unlockAll | .unlockDriver | .unlockDoor | .unlockTg | .crashUnlock => .unlock
  | .deadlockAll => .deadlock
  | .childEngage => .engage
  | .childDisengage => .disengage

/-- The state of a member equals the target of the action (R37). -/
def State.stateIsTarget (s : State) (d : Dir) (a : Actuator) : Bool :=
  match a, d with
  | .lock l, .lock => (s.latches.get l).state == .locked
  | .lock l, .unlock => (s.latches.get l).state == .unlocked
  | .lock l, .deadlock => (s.latches.get l).state == .deadlocked
  | .child c, .engage => (s.child.recs.get c).state == .engaged
  | .child c, .disengage => (s.child.recs.get c).state == .disengaged
  | _, _ => false

/-- A member at its target is not driven; a crash unlock always drives (R37). -/
def State.atTarget (s : State) (act : Action) (a : Actuator) : Bool :=
  act != .crashUnlock && s.stateIsTarget act.dir a && (s.entry? a).isNone && (s.drive? a).isNone

/-! ### Carrying out a request (R36) -/

/-- What the arbiter answered for the members. -/
structure Tally where
  queued : Bool
  merged : Bool
  /-- Some member was not answered OVERRULED. -/
  taken : Bool
  deriving DecidableEq, Repr

/-- An operation before it is carried out. -/
structure Operation where
  source : Source
  port : Option Port
  cls : Cls
  action : Action
  members : List Actuator
  pattern : Option (Fin 8)
  deriving DecidableEq, Repr

/-- One member: at its target it leaves outstanding, otherwise it is submitted (R36). -/
def submitMember (op : Operation) (id : Option Nat) (a : Actuator) (x : State × Tally) : State × Tally :=
  let settle (o : Settled) (s : State) : State :=
    match id with
    | some n => modGroup n (Group.settle a o) s
    | none => s
  if x.1.atTarget op.action a then (settle .success x.1, { x.2 with taken := true })
  else
    let r := submit { act := a, dir := op.action.dir, cls := op.cls, source := op.source, mode := none, group := id } x.1
    match r.2 with
    | .queued => (r.1, { x.2 with queued := true, taken := true })
    | .merged => (r.1, { x.2 with merged := true, taken := true })
    | .overruled => (settle .overruled r.1, x.2)

/-- The members in order (R36). -/
def submitMembers (op : Operation) (id : Option Nat) (s : State) : State × Tally :=
  op.members.foldl (fun x a => submitMember op id a x) (s, { queued := false, merged := false, taken := false })

/-- An accepted request creates its group and submits the members (R36): the result code and the group id, 0 when every
member was answered OVERRULED. -/
def runGroup (op : Operation) (s : State) : State × Result × Nat :=
  let id := s.newGroupId
  let g : Group :=
    { id := id, source := op.source, port := op.port, cls := op.cls, action := op.action, members := op.members
      outstanding := op.members, failed := [], overruled := [], pattern := op.pattern }
  let x := submitMembers op (some id) (openGroup g s)
  if x.2.taken then
    (testCompletion id x.1, if x.2.queued then .queued else if x.2.merged then .merged else .ok, id)
  else (removeGroup id x.1, .overruled, 0)

/-- An internal operation, which proceeds without a group when the table is full (R35). -/
def runInternal (op : Operation) (s : State) : State × Nat :=
  if s.tableFull then ((submitMembers op none s).1, 0)
  else
    let x := runGroup op s
    (x.1, x.2.2)

/-! ### Refusals (R41, R42) -/

/-- The deadlock conditions in order (R42). -/
def State.deadlockRefusal (s : State) : Option Result :=
  if !s.cfg.deadlockEnable then some .disabled
  else if s.ctx.ignition ≠ .off then some .ignitionState
  else if s.effSpeed ≠ .standstill then some .moving
  else if Latch.list.any (fun l => (s.latches.get l).ajar == .opened) then some .doorOpen
  else none

def State.driverAjar (s : State) : Bool := (s.latches.get s.driverLatch).ajar == .opened

/-- Checks 3 to 6 of R41; `door` asks for the door check of the ACCESS-class lock policies. -/
def State.lockRefusal (s : State) (d : Dir) (door : Bool) : Option Result :=
  if s.crash.latched && d != .unlock then some .crashActive
  else if door && s.driverAjar then some .doorOpen
  else
    match (if d = .deadlock then s.deadlockRefusal else none) with
    | some r => some r
    | none => if s.tableFull then some .busy else none

/-- A lock, unlock or deadlock request taken by the latch controller: it cancels auto-relock (R51), is checked (R41) and
carried out (R36). -/
def lockOperation (op : Operation) (door : Bool) (s : State) : State × Result × Nat :=
  let s := s.withPresses { s.presses with relockDue := none }
  match s.lockRefusal op.action.dir door with
  | some r => (s, r, 0)
  | none => runGroup op s

/-! ### Members and patterns of the actions (R39, R43) -/

def allLatches : List Actuator := Latch.list.map .lock
def sideLatches : List Actuator := Latch.sides.map .lock

/-- The pattern of a group from key cylinder, central button, fob or passive entry (R39). -/
def Action.pattern : Action → Option (Fin 8)
  | .lockAll | .lockTg => some 0
  | .unlockAll | .unlockDriver | .unlockDoor | .unlockTg => some 1
  | .deadlockAll => some 2
  | _ => none

/-- An operation of key cylinder, central button, fob or passive entry. -/
def occupantOp (source : Source) (port : Option Port) (cls : Cls) (action : Action) (members : List Actuator) :
    Operation :=
  { source := source, port := port, cls := cls, action := action, members := members, pattern := action.pattern }

end Sys2Proof.Machine
end

