-- ==== Sys2Proof/Machine/Ports.lean ====
section
/-! DEFINITION. The port units (R184 to R192): frame reception, permission, restart pending, the response slot, and the
form of every request command. -/

namespace Sys2Proof.Machine

/-- A port is permitted a group (R189). -/
def State.permitted (s : State) (p : Port) (g : Nat) : Bool :=
  let bit := s.cfg.permission p / 2 ^ g % 2 == 1
  match g, p with
  | 0, _ => true
  | 6, .restraint => true
  | 7, .restraint => false
  | _, _ => bit

/-- The response frame built from the slot and the summary byte (R191). -/
def State.responseFrame (s : State) (p : Port) : List Byte :=
  let slot := (s.ports.get p).slot
  let body := [(s.events.get p).summary, slot.echo, slot.result.code, byteOf slot.payload.length] ++ slot.payload
  body ++ [crc8 body]

/-- Byte `i` that SDO shifts out, byte 0 first: the response frame and after its check byte FFh (R191). SDO is driven only
while CS is active (R184); for a CS that started no frame the model drives nothing (log 32). -/
def State.sdoByte (s : State) (p : Port) (i : Nat) : Option Byte :=
  if s.pins.cs.get p && (s.ports.get p).receiving then some ((s.ports.get p).sdo.getD i 0xFF) else none

/-- Bit `n` that SDO shifts out, the most significant bit of byte 0 being bit 0 (R184). -/
def State.sdoBit (s : State) (p : Port) (n : Nat) : Option Bool :=
  (s.sdoByte p (n / 8)).map fun b => b.getLsbD (7 - n % 8)

/-- A falling edge of CS (R184): a wake source in PARK; in IDLE the receiver becomes RECEIVING and the response is built. The
WAKE of this edge is captured before its summary byte is sampled (R191, R202; log 40). -/
def csFall (p : Port) (s : State) : State :=
  let s := wake (s.withPins { s.pins with cs := s.pins.cs.set p true })
  s.modPort p fun u => { u with receiving := true, sdo := s.responseFrame p }

/-- The rising edge of CS: the receiver returns to IDLE (R184). -/
def csRise (p : Port) (s : State) : State :=
  (s.withPins { s.pins with cs := s.pins.cs.set p false }).modPort p fun u => { u with receiving := false }

/-- The response slot is replaced (R190). -/
def setSlot (p : Port) (echo : Byte) (r : Reply) (s : State) : State :=
  s.modPort p fun u => { u with slot := { echo := echo, result := r.result, payload := r.payload } }

/-- A frame that is not well formed (R186, R187). -/
def takeError (p : Port) (s : State) : State :=
  if s.sys.mode = .starting then setSlot p 0 (Reply.of .starting) s
  else setSlot p 0 (Reply.of .frameError) (offerFrameError p s)

/-- The staleness timer restarts while the ignition is not OFF (R7). -/
def restartStaleness (s : State) : State :=
  if s.ctx.ignition = .off then s else s.withCtx { s.ctx with staleDue := some (s.now + sec 2) }

/-- The BUSY of a pending restart: LOCK_REQUEST and CHILD_LOCK carry group id 0, every other refusal is empty (R192, R195;
log 33). -/
def restartBusy (code : Byte) : Reply :=
  { result := .busy, payload := if code = 0x20 ∨ code = 0x21 then [0] else [] }

/-- The checks of R188 and R195, and the owner's answer. -/
def dispatch (owner : Option Owner) (p : Port) (code : Byte) (payload : List Byte) (s : State) : State × Reply :=
  match owner with
  | none => refuse .unknownRequest s
  | some f =>
    if !s.permitted p (groupOfCode code) then refuse .notPermitted s
    else if s.sys.restartPending && groupOfCode code != 0 && code != 0x73 then (s, restartBusy code)
    else f p payload s

/-- A well-formed frame (R187, R188, R190). -/
def takeFrame (owner : Option Owner) (p : Port) (code : Byte) (payload : List Byte) (s : State) : State :=
  if s.sys.mode = .starting then setSlot p code (Reply.of .starting) s
  else
    let s := if p = .body then restartStaleness s else s
    let a := dispatch owner p code payload s
    setSlot p code a.2 a.1

/-- The end of a chip-select pulse whose frame is judged by `judge`. Without a CHIP_SELECT_FALL before it the command stands
for the whole pulse (log 7), whose active CS ends an idle period (R200); a CS already active when reset was released starts no
frame (R184). -/
def endPulse (p : Port) (judge : State → State) (s : State) : State :=
  if (s.ports.get p).receiving then judge (csRise p s)
  else if s.pins.cs.get p then csRise p s
  else judge (csRise p (refreshPark (csFall p s)))

/-- The end of a chip-select pulse while brown-out reset is in force: only the pin changes (log 4). -/
def onPulse (dt : Time) (p : Port) (judge : State → State) (s : State) : Out :=
  let s := advance dt s
  if s.sys.inReset then .next (s.withPins { s.pins with cs := s.pins.cs.set p false })
  else .next (refreshPark (endPulse p judge s))

/-- A request command: the frame of `code` and `payload` taken on a port; a payload no frame can carry is a frame error
(log 9). -/
def onRequest (dt : Time) (p : Port) (code : Byte) (payload : List Byte) (owner : Owner) (s : State) : Out :=
  onPulse dt p (if payload.length ≤ 14 then takeFrame (some owner) p code payload else takeError p) s

/-- NOP as it is answered (R193). -/
def nopOwner : Owner := fun _ payload s => if payload = [] then refuse .ok s else refuse .badArgument s

/-- CHIP_SELECT_FALL (R184, R191). -/
def execChipSelectFall (dt : Time) (p : Port) (s : State) : Out :=
  let s := advance dt s
  if s.sys.inReset then .next (s.withPins { s.pins with cs := s.pins.cs.set p true })
  else if s.pins.cs.get p then .next (refreshPark s)
  else .next (refreshPark (csFall p s))

/-- NOP (R193). -/
def execNop (dt : Time) (p : Port) (payload : List Byte) (s : State) : Out := onRequest dt p 0x00 payload nopOwner s

end Sys2Proof.Machine
end

