-- ==== Sys2Proof/Machine/Latches.lean ====
section
/-! DEFINITION. The latch controller (R24 to R53): door and position inputs, lock motor drives, heat, the sources of lock
requests, auto-relock and the tailgate release. -/

namespace Sys2Proof.Machine

/-! ### Inputs (R26, R27) -/

/-- A watch in progress ends with outcome OPENED (R53). -/
def releaseOpened (s : State) : State :=
  if s.release.watchDue.isSome then s.withRelease { s.release with watchDue := none, last := .opened } else s

/-- A debounced AJAR change (R26); OPEN cancels auto-relock, ends retained power (FL, FR) and meets the watch (TG). -/
def takeAjar (l : Latch) (v : Ajar) (s : State) : State :=
  if (s.latches.get l).ajar = v then s
  else
    let s := s.modLatch l fun r => { r with ajar := v }
    match v with
    | .closed => s
    | .opened =>
      let s := s.withPresses { s.presses with relockDue := none }
      match l with
      | .fl | .fr => s.withCtx { s.ctx with retainedDue := none }
      | .tg => releaseOpened s
      | _ => s

/-- The state after a manual change (R27). -/
def manualState (st : LatchState) (v : LockPos) : LatchState :=
  match st, v with
  | .unlocked, .locked => .locked
  | .locked, .unlocked => .unlocked
  | .deadlocked, .unlocked => .unlocked
  | st, _ => st

/-- A debounced LATCHPOS change: a manual change outside a drive, the position alone within one (R27). -/
def takeLatchpos (l : Latch) (v : LockPos) (s : State) : State :=
  if (s.latches.get l).position = v then s
  else
    let s := s.modLatch l fun r => { r with position := v }
    if (s.drive? (.lock l)).isSome then s
    else
      let st := (s.latches.get l).state
      if manualState st v = st then s else setLatchState l (manualState st v) (offer .lockChanged s)

/-- AJAR_CHANGE (R26). -/
def execAjarChange (dt : Time) (l : Latch) (v : Ajar) (s : State) : Out :=
  onInput dt (fun p => { p with ajar := p.ajar.set l v }) (takeAjar l v) s

/-- LATCHPOS_CHANGE (R27). -/
def execLatchposChange (dt : Time) (l : Latch) (v : LockPos) (s : State) : Out :=
  onInput dt (fun p => { p with latchpos := p.latchpos.set l v }) (takeLatchpos l v) s

/-! ### The lock motor drive (R28 to R32) -/

/-- The energized period ends with the bridge OFF, and SETTLING begins (R28, R29). -/
def endEnergizedLock (l : Latch) (openLoad : Bool) (s : State) : State :=
  (s.modLatch l fun r =>
    { r with driveDue := none, settleDue := some (s.now + msec 40), openLoad := openLoad }).setStage (.lock l) .off

/-- A failed drive (R30, R31): fault, end report FAULT, state reconciled. -/
def failLock (l : Latch) (f : DriveFault) (s : State) : State :=
  reconcileLatch l (endReport (.lock l) false
    (s.modLatch l fun r => { r with fault := f, driveDue := none, settleDue := none, openLoad := false }))

/-- The sensed target of a drive (R29). -/
def sensedTarget (d : Dir) : LockPos := if d = .unlock then .unlocked else .locked

/-- The state a successful drive leads to (R29). -/
def targetState (d : Dir) : LatchState :=
  match d with
  | .unlock => .unlocked
  | .deadlock => .deadlocked
  | _ => .locked

/-- A successful drive (R29). -/
def succeedLock (l : Latch) (d : Dir) (s : State) : State :=
  endReport (.lock l) true
    (setLatchState l (targetState d) (s.modLatch l fun r => { r with fault := .none, attempts := 0, settleDue := none }))

/-- The end of SETTLING (R29 to R31). -/
def settleLock (l : Latch) (s : State) : State :=
  match s.drive? (.lock l) with
  | none => s.modLatch l fun r => { r with settleDue := none }
  | some d =>
    let r := s.latches.get l
    if r.openLoad then failLock l .openLoad s
    else if r.position = sensedTarget d.dir then succeedLock l d.dir s
    else if r.attempts < r.retries then
      energizeLock l d.dir (s.modLatch l fun r => { r with attempts := r.attempts + 1 })
    else failLock l .noConfirm s

/-- LOCK_DRIVE_TIME_EXPIRY (R28); `openLoad` is the report of R12 for the period. -/
def execLockDriveTimeExpiry (l : Latch) (openLoad : Bool) (s : State) : Out :=
  onTimer (s.latches.get l).driveDue (endEnergizedLock l openLoad) s

/-- LOCK_SETTLE_END (R29). -/
def execLockSettleEnd (l : Latch) (s : State) : Out := onTimer (s.latches.get l).settleDue (settleLock l) s

/-- The brake hold of a lock motor ends with its bridge OFF (R16). -/
def endLockHold (l : Latch) (s : State) : State :=
  endHold (.lock l) ((s.modLatch l fun r => { r with brakeDue := none }).setStage (.lock l) .off)

/-- LOCK_BRAKE_HOLD_END (R16, R18). -/
def execLockBrakeHoldEnd (l : Latch) (s : State) : Out := onTimer (s.latches.get l).brakeDue (endLockHold l) s

/-- Overcurrent of a lock motor (R11, R31): in DRIVE the drive fails; in the brake of a hold the fault is recorded and the
hold ends. -/
def overcurrentLock (l : Latch) (s : State) : State :=
  match s.stages.locks.get l with
  | .off => s
  | .drive _ => failLock l .short (s.setStage (.lock l) .off)
  | .brake => endLockHold l (s.modLatch l fun r => { r with fault := .short })

/-! ### Heat (R33) -/

/-- A cooling expiry: heat falls by one; HOT falls at 8 and starts a grant scan. -/
def coolLatch (l : Latch) (s : State) : State :=
  let r := s.latches.get l
  let h := r.heat - 1
  let cooled := r.hot && h ≤ 8
  let s := s.modLatch l fun r =>
    { r with heat := h, hot := r.hot && !cooled, coolDue := if 0 < h then some (s.now + sec 5) else none }
  if cooled then scan s else s

/-- HEAT_COOLING_EXPIRY (R33). -/
def execHeatCoolingExpiry (l : Latch) (s : State) : Out := onTimer (s.latches.get l).coolDue (coolLatch l) s

/-! ### LOCK_REQUEST (R43) -/

/-- Target and action of a LOCK_REQUEST: the group action and its members (R43). -/
def State.lockTable (s : State) (target action : Byte) : Option (Action × List Actuator) :=
  match target.toNat, action.toNat with
  | 0, 0 => some (.lockAll, allLatches)
  | 0, 1 => some (.unlockAll, allLatches)
  | 0, 2 => some (.deadlockAll, sideLatches)
  | 1, 1 => some (.unlockDriver, [.lock s.driverLatch])
  | 2, 1 => some (.unlockDoor, [.lock .fl])
  | 3, 1 => some (.unlockDoor, [.lock .fr])
  | 4, 1 => some (.unlockDoor, [.lock .rl])
  | 5, 1 => some (.unlockDoor, [.lock .rr])
  | 6, 0 => some (.lockTg, [.lock .tg])
  | 6, 1 => some (.unlockTg, [.lock .tg])
  | _, _ => none

/-- The answer to a request that creates a group: result and group id (R43, R59). -/
def groupReply (x : State × Result × Nat) : State × Reply := (x.1, { result := x.2.1, payload := [byteOf x.2.2] })

/-- A refusal of a request that carries group id 0 (R43, R192). -/
def refuseGroup (r : Result) (s : State) : State × Reply := (s, { result := r, payload := [0] })

/-- LOCK_REQUEST as the latch controller takes it (R43); taken requests cancel auto-relock, refused ones included (R51). -/
def lockRequestOwner : Owner := fun p payload s =>
  let bad := refuseGroup .badArgument (s.withPresses { s.presses with relockDue := none })
  match payload with
  | [target, action, origin, pattern] =>
    match s.lockTable target action, originClass origin, patternOf pattern with
    | some (act, members), some cls, some pat =>
      groupReply (lockOperation
        { source := .bodyPort, port := some p, cls := cls, action := act, members := members, pattern := pat } false s)
    | _, _, _ => bad
  | _ => bad

/-- LOCK_REQUEST (R43). -/
def execLockRequest (dt : Time) (p : Port) (payload : List Byte) (s : State) : Out :=
  onRequest dt p 0x20 payload lockRequestOwner s

/-! ### Central button and key cylinder (R44, R45) -/

/-- A latch counts as LOCKED or DEADLOCKED for the central button: its state is one of them and no LOCK drive of it is
running (R44). -/
def State.countsLocked (s : State) (l : Latch) : Bool :=
  (s.latches.get l).state != .unlocked && !(s.drive? (.lock l)).any (·.dir == .lock)

/-- The four side-door latches count as LOCKED or DEADLOCKED (R44). -/
def State.sidesLocked (s : State) : Bool := Latch.sides.all s.countsLocked

/-- A press of CENTRAL_BUTTON (R44). -/
def takeCentral (s : State) : State :=
  let act : Action := if s.crash.latched || s.sidesLocked then .unlockAll else .lockAll
  (lockOperation (occupantOp .centralButton none .occupant act allLatches) false s).1

/-- CENTRAL_BUTTON_PRESS (R44); the release has no effect. -/
def execCentralButtonPress (dt : Time) (pressed : Bool) (s : State) : Out :=
  onMaskedInput dt 5 id (fun s => if pressed then takeCentral s else s) s

/-- The operation of a turn and the record after it (R45). -/
def State.turn (s : State) (k : KeyDir) : Action × List Actuator × Option KeyPress :=
  let armed := s.presses.key.map (·.armed)
  let arm : Option KeyPress := some { armed := k, due := s.now + sec 3 }
  match k with
  | .unlock =>
    if armed = some .unlock then (.unlockAll, allLatches, none) else (.unlockDriver, [.lock s.driverLatch], arm)
  | .lock => if armed = some .lock then (.deadlockAll, sideLatches, none) else (.lockAll, allLatches, arm)

/-- A turn of the key cylinder (R45); refused by R41 it leaves the record at none (log 27). -/
def takeTurn (k : KeyDir) (s : State) : State :=
  let t := s.turn k
  let x := lockOperation (occupantOp .keyCylinder none .occupant t.1 t.2.1) false s
  let refused := !x.2.1.accepts && x.2.1 != .overruled
  x.1.withPresses { x.1.presses with key := if refused then none else t.2.2 }

/-- A turn is a change to active while the other input reads inactive (R45). -/
def takeKeyInput (k : KeyDir) (active : Bool) (before : Pins) (s : State) : State :=
  let was : Bool := match k with | .lock => before.keyLock | .unlock => before.keyUnlock
  let other : Bool := match k with | .lock => before.keyUnlock | .unlock => before.keyLock
  if active && !was && !other then takeTurn k s else s

/-- KEY_CYLINDER_TURN (R45). -/
def execKeyCylinderTurn (dt : Time) (k : KeyDir) (active : Bool) (s : State) : Out :=
  onMaskedInput dt 5
    (fun p => match k with | .lock => { p with keyLock := active } | .unlock => { p with keyUnlock := active })
    (takeKeyInput k active s.pins) s

/-- KEY_PRESS_TIMER_EXPIRY (R45). -/
def execKeyPressTimerExpiry (s : State) : Out :=
  onTimer (s.presses.key.map (·.due)) (fun s => s.withPresses { s.presses with key := none }) s

/-! ### Fob and passive actions (R46 to R48) -/

/-- The operation of a fob press and the record after it (R46, R47). -/
def State.fobOp (s : State) (slot : SlotId) (k : KeyDir) (mode : UnlockMode) :
    Action × List Actuator × Option FobPress :=
  let second := s.presses.fob.any fun r => r.slot == slot && r.button == k
  let record : Option FobPress := some { slot := slot, button := k, due := s.now + sec 3 }
  match k, mode with
  | .unlock, .global => (.unlockAll, allLatches, none)
  | .unlock, .selective =>
    if second then (.unlockAll, allLatches, none) else (.unlockDriver, [.lock s.driverLatch], record)
  | .lock, _ => if second then (.deadlockAll, sideLatches, none) else (.lockAll, allLatches, record)

/-- A fob LOCK or UNLOCK action (R46, R47): ignition first, then R41; a refused press empties the record (log 27). -/
def fobAction (port : Port) (slot : SlotId) (k : KeyDir) (mode : UnlockMode) (s : State) : State × Result × Nat :=
  let t := s.fobOp slot k mode
  let x :=
    if s.ctx.ignition ≠ .off then
      (s.withPresses { s.presses with relockDue := none }, Result.ignitionState, 0)
    else lockOperation (occupantOp .fob (some port) .access t.1 t.2.1) (t.1 == .lockAll) s
  (x.1.withPresses { x.1.presses with fob := if x.2.1.accepts then t.2.2 else none }, x.2.1, x.2.2)

/-- FOB_PRESS_TIMER_EXPIRY (R46). -/
def execFobPressTimerExpiry (s : State) : Out :=
  onTimer (s.presses.fob.map (·.due)) (fun s => s.withPresses { s.presses with fob := none }) s

/-- A release request (R52): refused MOVING, otherwise submitted without a group. -/
def releaseRequest (cls : Cls) (source : Source) (s : State) : State × Result :=
  if s.effSpeed = .moving then (s, .moving)
  else
    let x := submit { act := .release, dir := .release, cls := cls, source := source, mode := none, group := none } s
    (x.1, match x.2 with | .queued => .queued | .merged => .merged | .overruled => .overruled)

/-- A passive action (R48). -/
def passiveAction (port : Port) (o : Origin) (mode : UnlockMode) (s : State) : State × Result × Nat :=
  let op (act : Action) (members : List Actuator) := occupantOp .passive (some port) .access act members
  let unlock (l : Latch) : State × Result × Nat :=
    match mode with
    | .selective => lockOperation (op .unlockDoor [.lock l]) false s
    | .global => lockOperation (op .unlockAll allLatches) false s
  match o with
  | .flUnlock => unlock .fl
  | .frUnlock => unlock .fr
  | .flLock | .frLock => lockOperation (op .lockAll allLatches) true s
  | .tg =>
    let x := releaseRequest .access .passive s
    (x.1, x.2, 0)

/-! ### Ignition and auto-relock (R49 to R51) -/

/-- Side-door latches that the ignition releases from deadlock (R49). -/
def State.deadlockMembers (s : State) : List Actuator :=
  sideLatches.filter fun a =>
    s.stateIsTarget .deadlock a || (s.drive? a).any (·.dir == .deadlock) || (s.entry? a).any (·.dir == .deadlock)

/-- A change of ignition from OFF: auto-relock cancelled and deadlock released (R49, R51). A motor whose running drive is an
UNLOCK merges by R15, and a DEADLOCK entry behind it stays, the model's choice (log 47). -/
def ignitionRelease (s : State) : State :=
  let s := s.withPresses { s.presses with relockDue := none }
  match s.deadlockMembers with
  | [] => s
  | ms =>
    (runInternal { source := .ignition, port := none, cls := .occupant, action := .unlockAll, members := ms
                   pattern := none } s).1

/-- The expiry of the auto-relock timer (R51). -/
def relock (s : State) : State :=
  let s := s.withPresses { s.presses with relockDue := none }
  if s.crash.latched then s
  else
    (runInternal { source := .autoRelock, port := none, cls := .comfort, action := .lockAll, members := allLatches
                   pattern := none } s).1

/-- AUTO_RELOCK_EXPIRY (R51). -/
def execAutoRelockExpiry (s : State) : Out := onTimer s.presses.relockDue relock s

/-! ### Tailgate release (R52, R53) -/

/-- TAILGATE_RELEASE as the latch controller takes it (R52). -/
def tailgateOwner : Owner := fun _ payload s =>
  match payload with
  | [b] =>
    match originClass b with
    | some cls =>
      let x := releaseRequest cls .bodyPort s
      (x.1, Reply.of x.2)
    | none => refuse .badArgument s
  | _ => refuse .badArgument s

/-- TAILGATE_RELEASE (R52). -/
def execTailgateRelease (dt : Time) (p : Port) (payload : List Byte) (s : State) : Out :=
  onRequest dt p 0x23 payload tailgateOwner s

/-- A failed pulse: last outcome set, the watch ends, LOCK_FAULT, end report FAULT (R53). -/
def failRelease (o : ReleaseOutcome) (s : State) : State :=
  endReport .release false
    (offer .lockFault ((s.withRelease { pulseDue := none, watchDue := none, last := o }).setStage .release .off))

/-- The end of the pulse time (R53). -/
def endPulseTime (openLoad : Bool) (s : State) : State :=
  if openLoad then failRelease .openLoad s
  else endReport .release true ((s.withRelease { s.release with pulseDue := none }).setStage .release .off)

/-- RELEASE_PULSE_END (R53). -/
def execReleasePulseEnd (openLoad : Bool) (s : State) : Out := onTimer s.release.pulseDue (endPulseTime openLoad) s

/-- RELEASE_WATCH_EXPIRY (R53). -/
def execReleaseWatchExpiry (s : State) : Out :=
  onTimer s.release.watchDue
    (fun s => offer .lockFault (s.withRelease { s.release with watchDue := none, last := .noOpen })) s

/-- Overcurrent of the release driver during a pulse (R11, R53). -/
def overcurrentRelease (s : State) : State :=
  match s.stages.release with
  | .drive _ => failRelease .short s
  | _ => s

end Sys2Proof.Machine
end

