-- ==== Sys2Proof/Machine/Windows.lean ====
section
/-! DEFINITION. The window controller (R65 to R91): switch channels, admission and application of movement requests, runs,
stops, normalization and comfort. -/

namespace Sys2Proof.Machine

/-! ### Stops and direction changes of a running window (R76, R81) -/

/-- A running window stops (R81): learning after TOP, the run computation ends, brake of 40 ms with the cause pending. A
normalizing phase ends with the stop (R89), at the brake's end for a Hall fault (R69). -/
def stopRun (w : Win) (cause : StopCause) (s : State) : State :=
  let s := if cause = .top then learnAtTop w s else s
  (brakeWindow w (endRun w s)).modWindow w fun r =>
    { r with run := if r.run = .reversing then .reversing else .brake, pending := some cause, runDue := none
             noPulseArmed := false, normPhase := if cause = .hallFault then r.normPhase else .none
             pendingFault := if cause = .hallFault then .hallFault else r.pendingFault }

/-- The bridge brakes to change direction (R76). -/
def brakeToChange (w : Win) (d : WDir) (s : State) : State :=
  (brakeWindow w (endRun w s)).modWindow w fun r =>
    { r with run := if r.run = .reversing then .reversing else .brake, nextDir := some d, runDue := none
             noPulseArmed := false }

/-- The movement fields of a window (R65). -/
def setMovement (w : Win) (mode : WMode) (source : Source) (cls : Cls) (s : State) : State :=
  s.modWindow w fun r => { r with mode := some mode, source := some source, cls := some cls }

/-- The movement of a window ends: its fields become absent and it leaves the comfort-window set (R65, R91). -/
def clearMovement (w : Win) (s : State) : State :=
  (s.modWindow w fun r => { r with mode := none, source := none, cls := none }).setComfort w false

/-- A change of the normalization field captures NORMALIZATION_CHANGED (R67). -/
def changeNorm (w : Win) (v : Norm) (s : State) : State :=
  if (s.windows.get w).norm = v then s
  else offer .normalizationChanged (s.modWindow w fun r => { r with norm := v })

/-- Normalization becomes UNLEARNED, the first profile row being queued (R67). -/
def unlearn (w : Win) (s : State) : State :=
  if (s.windows.get w).norm = .unlearned then s else writeProfileRow w 0 (changeNorm w .unlearned s)

/-! ### The end of a stop (R81, R82, R107) -/

/-- The channels of a window. -/
def chanWin : Chan → Win
  | .panel w => w
  | .localFR => .w2
  | .localRL => .w3
  | .localRR => .w4

/-- Channels of the window that read other than NEUTRAL are set waiting (R83). -/
def holdChannels (w : Win) (s : State) : State :=
  Chan.list.foldl
    (fun s c =>
      if chanWin c = w ∧ (s.chans.get c).position ≠ .neutral then s.modChan c fun r => { r with waiting := true } else s)
    s

/-- A reversal in progress ends: outcome recorded, channels held (R83, R107). -/
def finishReversal (w : Win) (cause : StopCause) (s : State) : State :=
  if (s.pinch.get w).rev.active then
    holdChannels w (s.modPinch w fun c => { c with rev := c.rev.finish cause })
  else s

/-- An entry of the window waits in the queue (an entry submitted during a brake hold, R75). -/
def State.windowQueued (s : State) (w : Win) : Bool := (s.entry? (.window w)).isSome

/-- A FAULTED window keeps no queued entry (log 14). -/
def dropEntry (w : Win) (s : State) : State := clearMovement w (withdraw w s)

/-- A window stops in FAULTED, at once or at the end of a brake (R69, R80, R88). -/
def settleFaulted (w : Win) (cause : StopCause) (f : WFault) (s : State) : State :=
  let s := s.modWindow w fun r =>
    { r with run := .faulted, fault := f, lastStop := cause, nextDir := none, pending := none, pendingFault := .none
             normPhase := .none, runDue := none, brakeDue := none, noPulseArmed := false }
  let s := if f = .hallFault then unlearn w s else s
  finishReversal w cause (dropEntry w (offer .windowFault (offer .windowStopped s)))

/-- A stop with cause PINCH holds the channels that read other than NEUTRAL: of a restricted window as of one that reversed
(R83, R109). -/
def holdAfterPinch (w : Win) (cause : StopCause) (s : State) : State :=
  if cause = .pinch then holdChannels w s else s

/-- A window stops in STOPPED at the end of a brake, or in QUEUED when an entry waits (R81, R82, R109). -/
def settleStopped (w : Win) (cause : StopCause) (s : State) : State :=
  let queued := s.windowQueued w
  let s := s.modWindow w fun r =>
    { r with run := if queued then .queued else .stopped, lastStop := cause, nextDir := none, pending := none
             brakeDue := none }
  let s := if queued then s else clearMovement w s
  finishReversal w cause (holdAfterPinch w cause (offer .windowStopped s))

/-- The end of a stop brake with the bridge OFF (R81, R82). -/
def settleStop (w : Win) (s : State) : State :=
  let r := s.windows.get w
  let cause := r.pending.getD .none
  let s := s.setStage (.window w) .off
  if r.pendingFault = .none then settleStopped w cause s else settleFaulted w cause r.pendingFault s

/-- The drive of a window ends by end report, or its brake hold ends (R22, R82). -/
def endWindowDrive (w : Win) (s : State) : State :=
  if s.held (.window w) then endHold (.window w) s
  else endReport (.window w) ((s.windows.get w).run != .faulted) s

/-- The end of a brake of a window bridge (R76, R81, R82). -/
def endWindowBrake (w : Win) (s : State) : State :=
  match (s.windows.get w).nextDir with
  | some d => startRun w d s
  | none => endWindowDrive w (settleStop w s)

/-- WINDOW_BRAKE_END (R81). -/
def execWindowBrakeEnd (w : Win) (s : State) : Out := onTimer (s.windows.get w).brakeDue (endWindowBrake w) s

/-- Overcurrent of a window bridge (R11, R80). -/
def overcurrentWindow (w : Win) (s : State) : State :=
  match s.stages.windows.get w with
  | .off => s
  | _ =>
    endWindowDrive w (settleFaulted w .overcurrent .overcurrent ((endRun w s).setStage (.window w) .off))

/-! ### Pinch, stalls and Hall tests (R69, R79, R83, R87, R88) -/

/-- PINCH reported for an UP run (R83, R104, R109). -/
def takePinch (w : Win) (s : State) : State :=
  let restricted := (s.pinch.get w).run.any (·.restricted)
  let s := s.modWindow w fun r => { r with lastPinch := some r.p }
  if restricted then stopRun w .pinch s
  else
    let s := (startReversal w s).modWindow w fun r => { r with run := .reversing, normPhase := .none }
    let r := s.windows.get w
    tellDrive w .down r.mode r.source ((brakeToChange w .down s).setComfort w false)

/-- The effects of a TOP result (R79). -/
def reachTop (w : Win) (s : State) : State :=
  let s := s.modWindow w fun r => { r with p := 0, reversals := 0, restricted := false }
  stopRun w .top (if (s.windows.get w).norm = .positionLost then changeNorm w .learned s else s)

/-- The top found in NORM_UP (R87). -/
def topFound (w : Win) (s : State) : State :=
  let s := s.modWindow w fun r => { r with p := 0, normPhase := .normDown }
  let r := s.windows.get w
  tellDrive w .down r.mode r.source (brakeToChange w .down s)

/-- The bottom found in NORM_DOWN (R88); the six rows are queued in ascending order (log 45). -/
def bottomFound (w : Win) (s : State) : State :=
  let p := (s.windows.get w).p
  if 600 ≤ p ∧ p ≤ 2047 then
    let s := (s.modWindow w fun r => { r with pmax := some p }).setProfile w (Vector.replicate 32 0)
    let s := (List.range 6).foldl (fun s r => writeProfileRow w r s) (changeNorm w .learned s)
    stopRun w .bottom s
  else (stopRun w .bottom s).modWindow w fun r => { r with pendingFault := .normFailed }

/-- A stall found in DRIVE is classified at once (R79, R103). -/
def takeStall (w : Win) (s : State) : State :=
  let r := s.windows.get w
  match s.stages.windows.get w with
  | .drive .up =>
    if r.normPhase = .normUp then topFound w s
    else
      match r.norm with
      | .positionLost => reachTop w s
      | .learned =>
        if r.p ≤ r.sealDist + 24 then reachTop w s
        else if s.stallIsPinch w then takePinch w s else stopRun w .blocked s
      | .unlearned => if s.stallIsPinch w then takePinch w s else stopRun w .blocked s
  | .drive _ =>
    if r.normPhase = .normDown then bottomFound w s
    else if r.norm = .learned ∧ r.p + 20 < r.pmax.getD 2047 then stopRun w .blocked s
    else stopRun w .bottom s
  | _ => s

/-- The 150 ms test (R69): a run without an edge is stalled or has a Hall fault. -/
def judgeNoPulse (w : Win) (aboveStall : Bool) (s : State) : State :=
  let silent := (s.windows.get w).edges = 0
  let s := s.modWindow w fun r => { r with noPulseArmed := false }
  if silent then (if aboveStall then takeStall w s else stopRun w .hallFault s) else s

/-- The instant of the 150 ms test, while it is armed (R69). -/
def State.noPulseDue (s : State) (w : Win) : Timer :=
  let r := s.windows.get w
  if r.noPulseArmed then some (r.driveFrom + msec 150) else none

/-- NO_PULSE_TEST (R69). -/
def execNoPulseTest (w : Win) (aboveStall : Bool) (s : State) : Out :=
  onTimer (s.noPulseDue w) (judgeNoPulse w aboveStall) s

/-- The instant at which a stall is found: soft start ended, an edge counted, 30 ms without an edge (R79; log 34). -/
def State.stallDue (s : State) (w : Win) : Timer :=
  let r := s.windows.get w
  match s.stages.windows.get w with
  | .drive _ => if 0 < r.edges then some (max (r.driveFrom + msec 80) (r.lastEdge + msec 30)) else none
  | _ => none

/-- WINDOW_STALL (R79). -/
def execWindowStall (w : Win) (s : State) : Out := onTimer (s.stallDue w) (takeStall w) s

/-- RUN_TIMEOUT (R80). -/
def execRunTimeout (w : Win) (s : State) : Out := onTimer (s.windows.get w).runDue (stopRun w .timeout) s

/-! ### Position counting (R68, R69, R78) -/

/-- The position after an edge (R68). -/
def WindowRec.countEdge (r : WindowRec) (sense : HallSense) : Nat :=
  match sense with
  | .closing => r.p - 1
  | .opening => min (r.p + 1) (if r.norm = .learned then r.pmax.getD 2047 else 2047)

/-- An edge counted in DRIVE: edge count, last edge and wrong-direction count (R69, R79). -/
def WindowRec.driveEdge (r : WindowRec) (d : Dir) (sense : HallSense) (now : Time) : WindowRec :=
  let right := if d = .up then sense == .closing else sense == .opening
  { r with edges := r.edges + 1, lastEdge := now, wrong := if right then 0 else r.wrong + 1 }

/-- The end point of a movement at a pulse counted in DRIVE (R78): a target beyond Pmax - 8 gives way to the soft stop, and
one up to it is tested first (log 26). -/
def WindowRec.endPoint (r : WindowRec) (d : Dir) : Option StopCause :=
  if r.norm ≠ .learned then none
  else
    match d, r.mode with
    | .up, some (.target t) => if r.p ≤ t then some .target else none
    | .up, _ => none
    | _, some (.target t) =>
      if t + 8 ≤ r.pmax.getD 2047 ∧ t ≤ r.p then some .target
      else if r.pmax.getD 2047 ≤ r.p + 8 then some .bottom else none
    | _, _ => if r.pmax.getD 2047 ≤ r.p + 8 then some .bottom else none

/-- What a pulse counted in DRIVE ends the run with, besides a PINCH: a Hall fault, the reversal end, or an end point. -/
def State.edgeStop (s : State) (w : Win) (d : Dir) (sense : HallSense) : Option StopCause :=
  let r := s.windows.get w
  if 8 ≤ r.wrong then some .hallFault
  else if (s.pinch.get w).rev.active then (if s.reversalEnd w sense then some .pinch else none)
  else r.endPoint d

/-- An edge with the bridge in DRIVE. Where the pinch computer reports PINCH at the edge that ends the run otherwise, either is
taken first (R94): a free value decides (log 10). -/
def driveEdge (w : Win) (d : Dir) (sense : HallSense) (moved : Bool) (s : State) : State :=
  let s := handEdge w sense moved (s.modWindow w fun r => r.driveEdge d sense s.now)
  match s.pinchConfirmed w, s.edgeStop w d sense with
  | false, none => s
  | true, none => takePinch w s
  | false, some c => stopRun w c s
  | true, some c =>
    let t := s.withTies (s.ties + 1)
    if Config.pinchTakenFirst s.ties then takePinch w t else stopRun w c t

/-- A rising edge of HALL_A is counted in every run state (R68). -/
def takeEdge (w : Win) (sense : HallSense) (s : State) : State :=
  let p := (s.windows.get w).countEdge sense
  let moved := p != (s.windows.get w).p
  let s := passPulse w sense (s.modWindow w fun r => { r with p := p })
  match s.stages.windows.get w with
  | .drive d => driveEdge w d sense moved s
  | _ => s

/-- HALL_EDGE (R68); the Hall inputs are not watched in PARK. -/
def execHallEdge (dt : Time) (w : Win) (sense : HallSense) (s : State) : Out :=
  onReport dt (fun s => if s.sys.mode = .park then s else takeEdge w sense s) s

/-! ### Admission (R74) -/

/-- Who asks: a switch channel, comfort or a port. -/
inductive Asker | switch | comfort | port
  deriving DecidableEq, Repr

/-- The outcome of the admission checks. -/
inductive Admission
  | go (mode : WMode)
  /-- Check 7: no movement. -/
  | still
  | no (r : Result)
  deriving DecidableEq, Repr

def WindowRec.normalizing (r : WindowRec) : Bool := r.normPhase != .none

/-- REVERSING, or counted as such: a stop brake with pending PINCH or HALL_FAULT (R74). -/
def WindowRec.countsReversing (r : WindowRec) : Bool :=
  r.run == .reversing || (r.run == .brake && (r.pending == some .pinch || r.pending == some .hallFault))

/-- Checks 1 to 3 of R74. -/
def State.windowBarred (s : State) (w : Win) : Option Result :=
  let r := s.windows.get w
  if s.crash.latched then some .crashActive
  else if r.run = .faulted then some .notNormalized
  else if r.countsReversing || r.normalizing then some .busy
  else none

/-- Checks 4 to 7 of R74. -/
def WindowRec.admission (r : WindowRec) (a : Asker) (d : WDir) (mode : WMode) : Admission :=
  let auto := mode != .manual
  match d with
  | .up =>
    if r.restricted then
      match a with
      | .switch => .go .manual
      | _ => .no .inhibited
    else if auto && r.norm != .learned then
      match a with
      | .port => .no .notNormalized
      | _ => .go .manual
    else .go mode
  | .down =>
    if auto && r.norm == .unlearned then
      match a with
      | .port => .no .notNormalized
      | _ => .go .manual
    else if r.norm == .learned && r.pmax.getD 2047 ≤ r.p + 8 then .still
    else .go mode

/-- The checks of R74 in order. -/
def State.admission (s : State) (w : Win) (a : Asker) (d : WDir) (mode : WMode) : Admission :=
  match s.windowBarred w with
  | some r => .no r
  | none => (s.windows.get w).admission a d mode

/-! ### Application (R75, R76) -/

/-- An admitted start request. -/
structure Start where
  dir : WDir
  mode : WMode
  cls : Cls
  source : Source
  deriving DecidableEq, Repr

/-- The class of the window's movement is not above the request's (R75). -/
def WindowRec.yields (r : WindowRec) (c : Cls) : Bool := (r.cls.getD .comfort).rank ≤ c.rank

/-- The entry of a start request is submitted; `run` is the run state while it waits (R75). -/
def submitWindow (w : Win) (q : Start) (run : RunState) (s : State) : State × Result :=
  let s := (setMovement w q.mode q.source q.cls s).modWindow w fun r => { r with run := run }
  ((submit { act := .window w, dir := q.dir.dir, cls := q.cls, source := q.source, mode := some q.mode
             group := none } s).1, .queued)

/-- A change of a running drive told to the arbiter with the new movement fields (R15, R75). -/
def retarget (w : Win) (q : Start) (s : State) : State :=
  tellDrive w q.dir (some q.mode) (some q.source) (setMovement w q.mode q.source q.cls s)

/-- The run direction of RUN_UP and RUN_DOWN. -/
def RunState.dir : RunState → Option WDir
  | .runUp => some .up
  | .runDown => some .down
  | _ => none

/-- A start request on a window whose brake is in progress (R75, R76). -/
def startInBrake (w : Win) (q : Start) (s : State) : State × Result :=
  let r := s.windows.get w
  if s.held (.window w) then
    match s.entry? (.window w) with
    | some e => if e.cls.rank ≤ q.cls.rank then submitWindow w q .brake s else (s, .overruled)
    | none => submitWindow w q .brake s
  else if r.nextDir.isSome && !r.yields q.cls then (s, .overruled)
  else
    (retarget w q (s.modWindow w fun r =>
      { r with nextDir := some q.dir, pending := none, pendingFault := .none }), .ok)

/-- An admitted start request applied by run state (R75). -/
def applyStart (w : Win) (q : Start) (s : State) : State × Result :=
  let r := s.windows.get w
  let x : State × Result :=
    match r.run with
    | .stopped => submitWindow w q .queued s
    | .queued => if r.yields q.cls then submitWindow w q .queued s else (s, .overruled)
    | .runUp | .runDown =>
      if r.yields q.cls then
        (if r.run.dir = some q.dir then retarget w q s else brakeToChange w q.dir (retarget w q s), .ok)
      else (s, .overruled)
    | .brake => startInBrake w q s
    | .reversing => (s, .busy)
    | .faulted => (s, .notNormalized)
  if x.2 = .queued ∨ x.2 = .ok then (x.1.setComfort w (q.source == .comfort), x.2) else x

/-- A queued entry is withdrawn; `run` is the run state left (R75). -/
def withdrawMovement (w : Win) (run : RunState) (s : State) : State :=
  withdraw w ((clearMovement w s).modWindow w fun r => { r with run := run, normPhase := .none })

/-- A stop request applied by run state (R75); REVERSING and the stop brakes that count as it are refused BUSY (R74). -/
def applyStop (w : Win) (c : Cls) (cause : StopCause) (s : State) : State × Result :=
  let r := s.windows.get w
  if r.countsReversing then (s, .busy)
  else
    match r.run with
    | .queued => if r.yields c then (withdrawMovement w .stopped s, .ok) else (s, .overruled)
    | .runUp | .runDown => if r.yields c then (stopRun w cause s, .ok) else (s, .overruled)
    | .brake =>
      if s.held (.window w) then
        match s.entry? (.window w) with
        | some e => if e.cls.rank ≤ c.rank then (withdrawMovement w .brake s, .ok) else (s, .overruled)
        | none => (s, .ok)
      else if r.nextDir.isSome then
        if r.yields c then
          (s.modWindow w fun r => { r with nextDir := none, pending := some cause, normPhase := .none }, .ok)
        else (s, .overruled)
      else (s, .ok)
    | _ => (s, .ok)

/-! ### Switch channels (R70 to R73) -/

def chanSource : Chan → Source
  | .panel _ => .switchDriver
  | _ => .switchLocal

/-- The side whose effective rear inhibit a channel obeys (R64). -/
def chanSide : Chan → Option Side
  | .localRL => some .left
  | .localRR => some .right
  | _ => none

/-- A ladder reading as a position (R70). -/
def decodeLadder : Ladder → SwitchPos
  | .band p => p
  | .outside => .neutral

def switchDir : SwitchPos → Option WDir
  | .neutral => none
  | .up | .upAuto => some .up
  | .down | .downAuto => some .down

/-- The mode of a press (R72). -/
def pressMode : SwitchPos → WMode
  | .upAuto | .downAuto => .auto
  | _ => .manual

/-- The four kinds of change (R72). -/
inductive ChangeKind | press (d : WDir) | deepen (d : WDir) | ease | release
  deriving DecidableEq, Repr

def changeKind (old new : SwitchPos) : ChangeKind :=
  match switchDir new with
  | none => .release
  | some d =>
    if switchDir old = some d then (match new with | .upAuto | .downAuto => .deepen d | _ => .ease) else .press d

/-- The conditions under which a press or deepen acts (R71). -/
def State.switchPermitted (s : State) (c : Chan) : Bool :=
  let r := s.windows.get (chanWin c)
  s.sys.mode == .run && (s.ctx.ignition != .off || s.ctx.retainedDue.isSome) && !s.crash.latched
    && ((chanSide c).all fun d => !s.child.effective.get d) && !(s.chans.get c).waiting
    && r.run != .faulted && r.run != .reversing && !r.normalizing

def holdChan (c : Chan) (s : State) : State := s.modChan c fun r => { r with waiting := true }

/-- The movement of the window is AUTO or TARGET, queued, running or in a direction-change brake (R72). -/
def State.autoMovement (s : State) (w : Win) : Bool :=
  let r := s.windows.get w
  let moving :=
    match r.run with
    | .queued | .runUp | .runDown => true
    | .brake => r.nextDir.isSome || s.windowQueued w
    | _ => false
  moving && (match r.mode with | some .auto | some (.target _) => true | _ => false)

/-- A press, or a deepen, which is applied as the press at its position is (R72; log 17). -/
def takePress (c : Chan) (d : WDir) (pos : SwitchPos) (s : State) : State :=
  let w := chanWin c
  if !s.switchPermitted c then holdChan c s
  else if s.autoMovement w then holdChan c (applyStop w .access .stopRequest s).1
  else
    match s.admission w .switch d (pressMode pos) with
    | .go mode => (applyStart w { dir := d, mode := mode, cls := .access, source := chanSource c } s).1
    | _ => holdChan c s

/-- A release: waiting cleared, and a MANUAL movement of this channel ends (R71, R72). -/
def takeRelease (c : Chan) (s : State) : State :=
  let w := chanWin c
  let s := s.modChan c fun r => { r with waiting := false }
  let r := s.windows.get w
  if r.mode = some .manual ∧ r.source = some (chanSource c) then (applyStop w .access .released s).1 else s

/-- A debounced change of a channel (R71, R72). -/
def takeSwitch (c : Chan) (reading : Ladder) (s : State) : State :=
  let old := (s.chans.get c).position
  let pos := decodeLadder reading
  if pos = old then s
  else
    let s := s.modChan c fun r => { r with position := pos }
    match changeKind old pos with
    | .press d => takePress c d pos s
    | .deepen d => takePress c d pos s
    | .ease => s
    | .release => takeRelease c s

/-- SWITCH_CHANNEL_CHANGE (R71). -/
def execSwitchChannelChange (dt : Time) (c : Chan) (reading : Ladder) (s : State) : Out :=
  onInput dt (fun p => { p with ladders := p.ladders.set c reading }) (takeSwitch c reading) s

/-! ### WINDOW_REQUEST and NORMALIZE_WINDOW (R84 to R86) -/

/-- The class and the source of a window request (R84). -/
def portClass : Port → Cls
  | .radio => .access
  | _ => .comfort

def portSource : Port → Source
  | .body => .bodyPort
  | .radio => .radioPort
  | .restraint => .restraintPort

/-- A port start request (R74, R75). -/
def portStart (p : Port) (w : Win) (d : WDir) (mode : WMode) (s : State) : State × Result :=
  match s.admission w .port d mode with
  | .no r => (s, r)
  | .still => (s, .ok)
  | .go m => applyStart w { dir := d, mode := m, cls := portClass p, source := portSource p } s

/-- CLAMPED in place of QUEUED or OK when the position was clamped (R84, R85). -/
def clampedResult (clamped : Bool) (r : Result) : Result :=
  if clamped && (r == .queued || r == .ok) then .clamped else r

/-- MOVE_TO (R85). -/
def moveTo (p : Port) (w : Win) (x : Nat) (s : State) : State × Result :=
  let r := s.windows.get w
  match s.windowBarred w with
  | some res => (s, res)
  | none =>
    if r.norm ≠ .learned then (s, .notNormalized)
    else
      let pmax := r.pmax.getD 2047
      let t := min x pmax
      let y :=
        if t = 0 then portStart p w .up .auto s
        else if t = pmax then portStart p w .down .auto s
        else if t < r.p then portStart p w .up (.target t) s
        else if r.p < t then portStart p w .down (.target t) s
        else applyStop w (portClass p) .target s
      (y.1, clampedResult (t != x) y.2)

/-- WINDOW_REQUEST as the window controller takes it (R84, R85). -/
def windowRequestOwner : Owner := fun p payload s =>
  let answer (x : State × Result) : State × Reply := (x.1, Reply.of x.2)
  match payload with
  | [w, a] =>
    match winOf w, a.toNat with
    | some w, 0 => answer (portStart p w .up .auto s)
    | some w, 1 => answer (portStart p w .down .auto s)
    | some w, 2 => answer (applyStop w (portClass p) .stopRequest s)
    | _, _ => refuse .badArgument s
  | [w, a, hi, lo] =>
    match winOf w, a.toNat with
    | some w, 3 => answer (moveTo p w (nat16 hi lo) s)
    | _, _ => refuse .badArgument s
  | _ => refuse .badArgument s

/-- WINDOW_REQUEST (R84). -/
def execWindowRequest (dt : Time) (p : Port) (payload : List Byte) (s : State) : Out :=
  onRequest dt p 0x30 payload windowRequestOwner s

/-- The normalization procedure begins (R86). -/
def startNormalizing (p : Port) (w : Win) (s : State) : State × Result :=
  let s := unlearn w (s.modWindow w fun r => { r with fault := .none, reversals := 0, restricted := false })
  submitWindow w { dir := .up, mode := .auto, cls := portClass p, source := .normalize } .queued
    (s.modWindow w fun r => { r with normPhase := .normUp })

/-- NORMALIZE_WINDOW as the window controller takes it (R86). -/
def normalizeOwner : Owner := fun p payload s =>
  match payload with
  | [b] =>
    match winOf b with
    | some w =>
      if s.crash.latched then refuse .crashActive s
      else if (s.windows.get w).run ≠ .stopped ∧ (s.windows.get w).run ≠ .faulted then refuse .busy s
      else
        let x := startNormalizing p w s
        (x.1, Reply.of x.2)
    | none => refuse .badArgument s
  | _ => refuse .badArgument s

/-- NORMALIZE_WINDOW (R86). -/
def execNormalizeWindow (dt : Time) (p : Port) (payload : List Byte) (s : State) : Out :=
  onRequest dt p 0x31 payload normalizeOwner s

/-! ### Comfort, inhibit and crash (R64, R82, R90, R91) -/

/-- One window at a comfort start (R90). -/
def comfortWindow (d : WDir) (w : Win) (s : State) : State :=
  match s.admission w .comfort d .auto with
  | .go mode => (applyStart w { dir := d, mode := mode, cls := .access, source := .comfort } s).1
  | _ => s

/-- A comfort start handed by the access unit (R90). -/
def startComfort (d : WDir) (s : State) : State := Win.list.foldl (fun s w => comfortWindow d w s) s

/-- The end of comfort: every window still in the set stops, W1 first (log 39), and the set is empty (R91). -/
def endComfort (s : State) : State :=
  (Win.list.foldl (fun s w => if s.comfort.get w then (applyStop w .access .stopRequest s).1 else s) s).withComfort
    (Wins.all false)

/-- The window of a side and its local switch channel (R63, R64). -/
def sideWin : Side → Win
  | .left => .w3
  | .right => .w4

def sideChan : Side → Chan
  | .left => .localRL
  | .right => .localRR

/-- A change of a side's effective rear inhibit handed to the window controller (R64). -/
def takeInhibit (d : Side) (active : Bool) (s : State) : State :=
  let w := sideWin d
  let r := s.windows.get w
  if active then
    if r.source = some .switchLocal then
      (applyStop w .access (if r.mode = some .manual then .released else .stopRequest) s).1
    else s
  else if (s.chans.get (sideChan d)).position ≠ .neutral then holdChan (sideChan d) s
  else s

/-- At a crash the queued entry of a window leaves without a scan of its own (log 16). -/
def crashWithdraw (w : Win) (s : State) : State :=
  let s := s.modWindow w fun r => { r with normPhase := .none }
  if s.windowQueued w then
    (clearMovement w (removeEntry (.window w) s)).modWindow w fun r =>
      { r with run := if r.run = .queued then .stopped else r.run }
  else s

/-- A crash handed to the window controller (R82, R154). -/
def crashWindows (s : State) : State :=
  let s := Win.list.foldl (fun s w => crashWithdraw w s) s
  let s := s.youngestWindows.foldl (fun s w => revokeWindow w s) s
  scan (s.withComfort (Wins.all false))

end Sys2Proof.Machine
end

