-- ==== Sys2Proof/Machine/Access.lean ====
section
/-! DEFINITION. The access unit (R114 to R146): telegram acceptance, held press and comfort, passive entry and fob
administration. -/

namespace Sys2Proof.Machine

/-! ### The fob table (R114, R116, R118) -/

def Fob.enrolled (f : Fob) : Bool := f.state == .active || f.state == .suspended

/-- Stored state and mode bytes of a slot (section 9.6). -/
def FobState.stored : FobState → Byte
  | .empty => 0x00
  | .active => 0x01
  | .suspended => 0x02
  | .invalid => 0xFF

def UnlockMode.code : UnlockMode → Byte
  | .selective => 0
  | .global => 1

/-- The row of a slot (R116, section 9.6); that of an EMPTY slot holds the identifier 00000000h (log 43). -/
def fobRow (f : Fob) : Content :=
  padBytes 13 (be32 f.ident ++ be32 f.ceiling ++ [f.state.stored, f.mode.code, boolByte f.comfort])

/-- A write of the slot's row is queued (R116). -/
def writeFob (k : SlotId) (s : State) : State := storeWrite k.row (fobRow (s.fobs.get k)) s

/-- The slot in state ACTIVE or SUSPENDED that holds an identifier (R118). -/
def State.findFob (s : State) (ident : Word32) : Option SlotId :=
  SlotId.list.find? fun k => (s.fobs.get k).enrolled && (s.fobs.get k).ident == ident

/-! ### The counter test (R119) -/

/-- The distance of a counter from L, modulo 2^32 (R119). -/
def counterDistance (counter last : Word32) : Nat := (counter - last).toNat

/-- A pair with the pending counter: a gap of 1 or 2 (R119). -/
def pairGap (counter : Word32) (resync : Option Word32) : Bool :=
  match resync with
  | some q => counterDistance counter q == 1 || counterDistance counter q == 2
  | none => false

/-- The tracker follows the slot's press, its gap timer running (R119, R127). -/
def State.follows (s : State) (k : SlotId) : Bool := s.tracker.held.any (·.slot == k)

/-- The verdict for a telegram found in an ACTIVE slot (R119). -/
def State.judgeTelegram (s : State) (k : SlotId) (counter : Word32) (button : Button) (rep : Nat) : Verdict :=
  let f := s.fobs.get k
  let d := counterDistance counter f.counter
  if d = 0 then
    if 0 < rep ∧ f.press.any (·.button == button) ∧ s.follows k then .repeated else .stale
  else if d ≤ s.cfg.window then .accepted
  else if d ≤ 32768 then (if pairGap counter f.resync then .resynced else .resyncPending)
  else .stale

/-- The counter has reached or passed the ceiling (R120). -/
def atCeiling (counter ceiling : Word32) : Bool := counterDistance counter ceiling < 2147483648

/-! ### Held press and comfort (R127 to R131) -/

/-- Comfort of the followed press ends (R91, R128, R130). -/
def endPressComfort (s : State) : State := if s.trackerInComfort then endComfort s else s

/-- The tracker becomes IDLE (R130, R131); its hold time stays (log 43). -/
def releaseTracker (s : State) : State :=
  (endPressComfort s).withTracker { s.tracker with held := none, eligible := false }

/-- The tracker takes an accepted new press (R128). -/
def trackPress (k : SlotId) (b : Button) (s : State) : State :=
  (endPressComfort s).withTracker
    { held := some { slot := k, button := b, comfort := false, gapDue := s.now + msec 300 }
      eligible := b != .tailgate && s.cfg.comfortEnable && (s.fobs.get k).comfort
      holdTime := s.cfg.holdTime }

/-- A REPEAT as the tracker takes it (R122, R129): gap timer restarted; comfort may start. -/
def trackRepeat (k : SlotId) (s : State) : State :=
  match s.tracker.held with
  | none => s
  | some h =>
    let first := ((s.fobs.get k).press.map (·.time)).getD s.now
    let begins := !h.comfort && s.tracker.eligible && s.tracker.holdTime ≤ s.now - first && !s.crash.latched
    let s := s.withTracker
      { s.tracker with held := some { h with gapDue := s.now + msec 300, comfort := h.comfort || begins } }
    if begins then startComfort (if h.button = .lock then .up else .down) s else s

/-- GAP_TIMER_EXPIRY (R130). -/
def execGapTimerExpiry (s : State) : Out := onTimer (s.tracker.held.map (·.gapDue)) releaseTracker s

/-- A crash handed to the held-press tracker (R131). -/
def crashTracker (s : State) : State :=
  let s := endPressComfort s
  s.withTracker { s.tracker with held := s.tracker.held.map fun h => { h with comfort := false }, eligible := false }

/-! ### ACCESS_TELEGRAM (R117 to R126) -/

/-- The slot update of an accepted new press (R120) and its capture (R124). -/
def acceptPress (k : SlotId) (counter : Word32) (b : Button) (v : Verdict) (s : State) : State :=
  let passed := atCeiling counter (s.fobs.get k).ceiling
  let s := s.modFob k fun f =>
    { f with counter := counter, resync := none, failures := 0, verdict := v
             press := some { button := b, counter := counter, time := s.now, repeatSeen := false }
             ceiling := if passed then counter + 32 else f.ceiling }
  offer .telegramAccepted (if passed then writeFob k s else s)

/-- The action of an accepted new press handed to the latch controller (R125). -/
def pressAction (p : Port) (k : SlotId) (b : Button) (s : State) : State × Result × Nat :=
  match b with
  | .lock => fobAction p k .lock (s.fobs.get k).mode s
  | .unlock => fobAction p k .unlock (s.fobs.get k).mode s
  | .tailgate =>
    let x := releaseRequest .access .fob s
    (x.1, x.2, 0)

def slotByte (k : SlotId) : Byte := byteOf k.index

/-- A new press: slot, tracker, action, and the tracker again when the action is refused (R120, R125, R128). -/
def newPress (p : Port) (k : SlotId) (counter : Word32) (b : Button) (v : Verdict) (s : State) : State × Reply :=
  let x := pressAction p k b (trackPress k b (acceptPress k counter b v s))
  let s := x.1.withTracker { x.1.tracker with eligible := x.1.tracker.eligible && x.2.1.accepts }
  (s, { result := .ok, payload := [slotByte k, x.2.1.code, byteOf x.2.2] })

/-- A telegram rejected in a slot: the answer with its slot and no action (R121, R123, R126). -/
def rejectPress (k : SlotId) (r : Result) (f : Fob → Fob) (s : State) : State × Reply :=
  (offer .telegramRejected (s.modFob k f), { result := r, payload := [slotByte k, 0xFF, 0] })

/-- A further telegram of a held press (R122). -/
def repeatPress (k : SlotId) (s : State) : State × Reply :=
  let first := (s.fobs.get k).press.any (!·.repeatSeen)
  let s := s.modFob k fun f =>
    { f with verdict := .repeated, press := f.press.map fun x => { x with repeatSeen := true } }
  let s := if first then offer .telegramAccepted s else s
  (trackRepeat k s, { result := .repeated, payload := [slotByte k, 0xFF, 0] })

/-- A telegram as the access unit judges it (R118, R119, R124). -/
def takeTelegram (p : Port) (ident counter : Word32) (b : Button) (rep : Nat) (s : State) : State × Reply :=
  match s.findFob ident with
  | none => (offer .telegramRejected s, { result := .unknownFob, payload := [0xFF, 0xFF, 0] })
  | some k =>
    if (s.fobs.get k).state = .suspended then rejectPress k .fobSuspended (fun f => { f with verdict := .suspended }) s
    else
      match s.judgeTelegram k counter b rep with
      | .accepted => newPress p k counter b .accepted s
      | .resynced => newPress p k counter b .resynced s
      | .repeated => repeatPress k s
      | .resyncPending =>
        rejectPress k .resyncPending (fun f => { f with resync := some counter, verdict := .resyncPending }) s
      | _ => rejectPress k .stale (fun f => { f with failures := min 255 (f.failures + 1), verdict := .stale }) s

/-- ACCESS_TELEGRAM as the access unit takes it (R117). -/
def telegramOwner : Owner := fun p payload s =>
  match payload with
  | [i3, i2, i1, i0, c3, c2, c1, c0, b, rep] =>
    match buttonOf b with
    | some button =>
      if rep.toNat ≤ 15 then takeTelegram p (word32 i3 i2 i1 i0) (word32 c3 c2 c1 c0) button rep.toNat s
      else refuse .badArgument s
    | none => refuse .badArgument s
  | _ => refuse .badArgument s

/-- ACCESS_TELEGRAM (R117). -/
def execAccessTelegram (dt : Time) (p : Port) (payload : List Byte) (s : State) : Out :=
  onRequest dt p 0x40 payload telegramOwner s

/-! ### Passive entry (R132 to R141) -/

/-- A search starts (R134). -/
def startSearch (o : Origin) (s : State) : State :=
  let t := s.cfg.searchTimeout
  offer .searchPending (s.withSearch
    { state := .inFlight, seq := s.search.seq + 1, origin := some o, timeout := some t, due := some (s.now + msec (10 * t))
      outcome := none, slot := none, zone := none, inside := none, action := .none, group := 0 })

/-- A passive trigger (R132). -/
def takeTrigger (o : Origin) (s : State) : State :=
  if s.sys.mode = .run ∧ s.cfg.passiveEnable ∧ s.ctx.ignition = .off ∧ s.crash.latched = false
      ∧ s.search.state ≠ .inFlight then startSearch o s
  else s

def touchOrigin : Touch → Origin
  | .unlockFL => .flUnlock
  | .lockFL => .flLock
  | .unlockFR => .frUnlock
  | .lockFR => .frLock

/-- The wake mask bit of a touch input (section 9.6). -/
def touchBit : Touch → Nat
  | .unlockFL => 0
  | .lockFL => 1
  | .unlockFR => 2
  | .lockFR => 3

/-- PASSIVE_TRIGGER (R132). -/
def execPassiveTrigger (dt : Time) (t : Touch) (touched : Bool) (s : State) : Out :=
  onMaskedInput dt (touchBit t) id (fun s => if touched then takeTrigger (touchOrigin t) s else s) s

/-- A press of TG_BUTTON (R132): a release for an unlocked tailgate, a passive trigger for a locked one. -/
def takeTgButton (s : State) : State :=
  if (s.latches.get .tg).state = .unlocked then (releaseRequest .access .tgButton s).1 else takeTrigger .tg s

/-- TG_BUTTON_PRESS (R132). -/
def execTgButtonPress (dt : Time) (pressed : Bool) (s : State) : Out :=
  onMaskedInput dt 4 id (fun s => if pressed then takeTgButton s else s) s

/-- Origin codes (R135). -/
def originCode : Origin → Byte
  | .flUnlock => 0
  | .flLock => 1
  | .frUnlock => 2
  | .frLock => 3
  | .tg => 4

/-- READ_SEARCH as the access unit takes it (R135). -/
def readSearchOwner : Owner := fun _ payload s =>
  if payload ≠ [] then refuse .badArgument s
  else
    match s.search.state, s.search.origin with
    | .inFlight, some o => (s, { result := .ok, payload := [s.search.seq, originCode o] })
    | _, _ => refuse .ok s

/-- READ_SEARCH (R135). -/
def execReadSearch (dt : Time) (p : Port) (payload : List Byte) (s : State) : Out :=
  onRequest dt p 0x41 payload readSearchOwner s

/-- A search ends (R137, R140, R141): timer stopped, SEARCH_ENDED captured. -/
def endSearch (outcome : SearchOutcome) (slot : Option SlotId) (zone : Option Zone) (inside : Option Bool) (s : State) :
    State :=
  offer .searchEnded (s.withSearch
    { s.search with state := .ended, due := none, outcome := some outcome, slot := slot, zone := zone, inside := inside
                    action := .none })

/-- The matching zone of an origin (R138, R139). -/
def matchingZone : Origin → Zone
  | .flUnlock | .flLock => .outsideFL
  | .frUnlock | .frLock => .outsideFR
  | .tg => .outsideRear

def isLockOrigin : Origin → Bool
  | .flLock | .frLock => true
  | _ => false

/-- The judgement of a result without an action (R138, R139): what the slot and zone found give, none when the action
follows. -/
def State.searchRefusal (s : State) (o : Origin) (slot : Option SlotId) (zone : Option Zone) (found : Bool) :
    Option SearchAction :=
  if !found then some .noFob
  else
    match slot with
    | none => some (.code .unknownFob)
    | some k =>
      if (s.fobs.get k).state = .suspended then some (.code .fobSuspended)
      else if zone ≠ some (matchingZone o) then some .zoneMismatch
      else none

/-- The judgement of a result by its origin (R138, R139): the action outcome and the group id. -/
def judgeResult (p : Port) (o : Origin) (slot : Option SlotId) (zone : Option Zone) (inside found : Bool) (s : State) :
    State × Option Result × Nat :=
  let record (a : SearchAction) (id : Nat) (s : State) : State :=
    s.withSearch { s.search with action := a, group := id }
  if isLockOrigin o && inside then (patternRequest 3 (offer .keyInside (record .keyInside 0 s)), none, 0)
  else
    match s.searchRefusal o slot zone found with
    | some a => (record a 0 s, none, 0)
    | none =>
      let mode := (slot.map fun k => (s.fobs.get k).mode).getD .selective
      let x := passiveAction p o mode s
      (record (.code x.2.1) x.2.2 x.1, some x.2.1, x.2.2)

/-- A matching SEARCH_RESULT (R137). -/
def matchResult (p : Port) (o : Origin) (found : Option (Word32 × Zone)) (inside : Bool) (s : State) : State × Reply :=
  let slot := found.bind fun f => s.findFob f.1
  let zone := found.map (·.2)
  let s := endSearch (if found.isSome then .found else .notFound) slot zone (some inside) s
  let x := judgeResult p o slot zone inside found.isSome s
  let slotB : Byte := match slot with | some k => slotByte k | none => 0xFF
  let resB : Byte := match x.2.1 with | some r => r.code | none => 0xFF
  (x.1, { result := .ok, payload := [slotB, resB, byteOf x.2.2] })

/-- A well-formed result compared with the search record (R136). -/
def takeResult (p : Port) (seq : Byte) (found : Option (Word32 × Zone)) (inside : Bool) (s : State) : State × Reply :=
  match s.search.state, s.search.origin with
  | .inFlight, some o => if s.search.seq = seq then matchResult p o found inside s else refuse .late s
  | _, _ => refuse .late s

/-- SEARCH_RESULT as the access unit takes it (R136). -/
def searchResultOwner : Owner := fun p payload s =>
  match payload with
  | [seq, outcome, inside] =>
    match boolOf inside with
    | some b => if outcome = 1 then takeResult p seq none b s else refuse .badArgument s
    | none => refuse .badArgument s
  | [seq, outcome, inside, i3, i2, i1, i0, zone] =>
    match boolOf inside, zoneByteOf zone with
    | some b, some z =>
      if outcome = 0 then takeResult p seq (some (word32 i3 i2 i1 i0, z)) b s else refuse .badArgument s
    | _, _ => refuse .badArgument s
  | _ => refuse .badArgument s

/-- SEARCH_RESULT (R136). -/
def execSearchResult (dt : Time) (p : Port) (payload : List Byte) (s : State) : Out :=
  onRequest dt p 0x42 payload searchResultOwner s

/-- SEARCH_TIMEOUT (R140). -/
def execSearchTimeout (s : State) : Out := onTimer s.search.due (endSearch .timeout none none none) s

/-- A crash handed to the access unit (R131, R141). -/
def crashAccess (s : State) : State :=
  crashTracker (if s.search.state = .inFlight then endSearch .crash none none none s else s)

/-! ### Fob administration (R142 to R146) -/

/-- Checks 2 and 3 of R142. -/
def State.adminRefusal (s : State) : Option Result :=
  if s.ctx.ignition ≠ .run then some .ignitionState
  else if s.effSpeed ≠ .standstill then some .moving
  else none

/-- The common checks, then the slot condition and the effect of the request (R142). -/
def administer (act : State → State × Reply) (s : State) : State × Reply :=
  match s.adminRefusal with
  | some r => refuse r s
  | none => act s

/-- ENROL_FOB carried out (R143). -/
def enrol (k : SlotId) (ident counter : Word32) (mode : UnlockMode) (comfort : Bool) (s : State) : State × Reply :=
  if (s.fobs.get k).enrolled then refuse .slotInUse s
  else if (s.findFob ident).isSome then refuse .duplicate s
  else
    let s := s.modFob k fun _ =>
      { state := .active, ident := ident, counter := counter, ceiling := counter + 32, resync := none, mode := mode
        comfort := comfort, failures := 0, verdict := .none, press := none }
    (patternRequest 5 (writeFob k s), Reply.of .ok)

/-- ENROL_FOB as the access unit takes it (R143). -/
def enrolOwner : Owner := fun _ payload s =>
  match payload with
  | [slot, i3, i2, i1, i0, c3, c2, c1, c0, mode, comfort] =>
    match slotOf slot, modeOf mode, boolOf comfort with
    | some k, some m, some b => administer (enrol k (word32 i3 i2 i1 i0) (word32 c3 c2 c1 c0) m b) s
    | _, _, _ => refuse .badArgument s
  | _ => refuse .badArgument s

/-- ENROL_FOB (R143). -/
def execEnrolFob (dt : Time) (p : Port) (payload : List Byte) (s : State) : Out :=
  onRequest dt p 0x50 payload enrolOwner s

/-- A request that carries the slot alone (R144, R145). -/
def slotOwner (act : SlotId → State → State × Reply) : Owner := fun _ payload s =>
  match payload with
  | [b] =>
    match slotOf b with
    | some k => administer (act k) s
    | none => refuse .badArgument s
  | _ => refuse .badArgument s

/-- The tracker lets go of a slot that was removed or suspended (R131). -/
def letGo (k : SlotId) (s : State) : State := if s.follows k then releaseTracker s else s

/-- REMOVE_FOB carried out (R144). -/
def removeSlot (k : SlotId) (s : State) : State × Reply :=
  if (s.fobs.get k).state = .empty then refuse .ok s
  else (letGo k (writeFob k (s.modFob k fun _ => Fob.reset)), Reply.of .ok)

/-- REMOVE_FOB (R144). -/
def execRemoveFob (dt : Time) (p : Port) (payload : List Byte) (s : State) : Out :=
  onRequest dt p 0x51 payload (slotOwner removeSlot) s

/-- SUSPEND_FOB carried out (R145). -/
def suspendSlot (k : SlotId) (s : State) : State × Reply :=
  match (s.fobs.get k).state with
  | .active =>
    (letGo k (writeFob k (s.modFob k fun f => { f with state := .suspended, resync := none })), Reply.of .ok)
  | .suspended => refuse .ok s
  | _ => refuse .unknownFob s

/-- SUSPEND_FOB (R145). -/
def execSuspendFob (dt : Time) (p : Port) (payload : List Byte) (s : State) : Out :=
  onRequest dt p 0x52 payload (slotOwner suspendSlot) s

/-- REINSTATE_FOB carried out (R145). -/
def reinstateSlot (k : SlotId) (s : State) : State × Reply :=
  match (s.fobs.get k).state with
  | .suspended => (writeFob k (s.modFob k fun f => { f with state := .active, resync := none }), Reply.of .ok)
  | .active => refuse .ok s
  | _ => refuse .unknownFob s

/-- REINSTATE_FOB (R145). -/
def execReinstateFob (dt : Time) (p : Port) (payload : List Byte) (s : State) : Out :=
  onRequest dt p 0x53 payload (slotOwner reinstateSlot) s

/-- SET_FOB_MODE carried out (R146); a pending counter is kept (R121; log 42). -/
def setFobMode (k : SlotId) (mode : UnlockMode) (comfort : Bool) (s : State) : State × Reply :=
  let f := s.fobs.get k
  if !f.enrolled then refuse .unknownFob s
  else if f.mode = mode ∧ f.comfort = comfort then refuse .ok s
  else (writeFob k (s.modFob k fun f => { f with mode := mode, comfort := comfort }), Reply.of .ok)

/-- SET_FOB_MODE as the access unit takes it (R146). -/
def setFobModeOwner : Owner := fun _ payload s =>
  match payload with
  | [slot, mode, comfort] =>
    match slotOf slot, modeOf mode, boolOf comfort with
    | some k, some m, some b => administer (setFobMode k m b) s
    | _, _, _ => refuse .badArgument s
  | _ => refuse .badArgument s

/-- SET_FOB_MODE (R146). -/
def execSetFobMode (dt : Time) (p : Port) (payload : List Byte) (s : State) : Out :=
  onRequest dt p 0x54 payload setFobModeOwner s

end Sys2Proof.Machine
end

