-- ==== Sys2Proof/Machine/Children.lean ====
section
/-! DEFINITION. The child lock unit (R54 to R64): child locks, their drives and requests, and the rear window inhibit. -/

namespace Sys2Proof.Machine

/-! ### Effective rear inhibit (R63) -/

/-- The effective rear inhibit of a side, true when ACTIVE (R63). -/
def State.inhibitOf (s : State) (c : Side) : Bool :=
  s.child.rearInhibit || (s.cfg.childLink && (s.child.recs.get c).state == .engaged)

/-- The effective rear inhibit of a side is evaluated; a change is handed to the window controller (R63, R64). -/
def evalInhibit (c : Side) (s : State) : State :=
  let v := s.inhibitOf c
  if s.child.effective.get c = v then s
  else takeInhibit c v (s.withChild { s.child with effective := s.child.effective.set c v })

/-- Both sides, L first (R63; log 39). -/
def evalInhibits (s : State) : State := evalInhibit .right (evalInhibit .left s)

/-! ### State, copy and position (R54, R56) -/

/-- A child lock takes a state: its copy in the STATE row is written and the inhibit evaluated (R54, R63). -/
def setChildState (c : Side) (v : ChildPos) (s : State) : State :=
  if (s.child.recs.get c).state = v then s
  else
    let s := s.modChild c fun r => { r with state := v }
    evalInhibit c (writeStateByte 4 (setBit s.childCopies (childBit c) (v == .engaged)) s)

/-- A debounced CHPOS change (R56): a manual change outside a drive, the position alone within one. -/
def takeChpos (c : Side) (v : ChildPos) (s : State) : State :=
  if (s.child.recs.get c).position = v then s
  else
    let s := s.modChild c fun r => { r with position := v }
    if (s.drive? (.child c)).isSome ∨ (s.child.recs.get c).state = v then s
    else setChildState c v (offer .childChanged s)

/-- CHPOS_CHANGE (R56). -/
def execChposChange (dt : Time) (c : Side) (v : ChildPos) (s : State) : Out :=
  onInput dt (fun p => { p with chpos := p.chpos.set c v }) (takeChpos c v) s

/-! ### The child actuator drive (R57, R58) -/

/-- The energized period ends with the driver OFF, and SETTLING begins (R57). -/
def endEnergizedChild (c : Side) (openLoad : Bool) (s : State) : State :=
  (s.modChild c fun r =>
    { r with driveDue := none, settleDue := some (s.now + msec 40), openLoad := openLoad }).setStage (.child c) .off

/-- A failed drive (R58): fault, end report FAULT, state reconciled with the position. -/
def failChild (c : Side) (f : DriveFault) (s : State) : State :=
  let s := endReport (.child c) false
    (s.modChild c fun r => { r with fault := f, driveDue := none, settleDue := none, openLoad := false })
  setChildState c (s.child.recs.get c).position s

/-- The state a child drive leads to (R58). -/
def childTarget (d : Dir) : ChildPos := if d = .engage then .engaged else .disengaged

/-- A successful drive (R58). -/
def succeedChild (c : Side) (d : Dir) (s : State) : State :=
  endReport (.child c) true
    (setChildState c (childTarget d) (s.modChild c fun r => { r with fault := .none, attempts := 0, settleDue := none }))

/-- The end of SETTLING (R58). -/
def settleChild (c : Side) (s : State) : State :=
  match s.drive? (.child c) with
  | none => s.modChild c fun r => { r with settleDue := none }
  | some d =>
    let r := s.child.recs.get c
    if r.openLoad then failChild c .openLoad s
    else if r.position = childTarget d.dir then succeedChild c d.dir s
    else if r.attempts < r.retries then
      energizeChild c d.dir (s.modChild c fun r => { r with attempts := r.attempts + 1 })
    else failChild c .noConfirm s

/-- CHILD_DRIVE_TIME_EXPIRY (R57). -/
def execChildDriveTimeExpiry (c : Side) (openLoad : Bool) (s : State) : Out :=
  onTimer (s.child.recs.get c).driveDue (endEnergizedChild c openLoad) s

/-- CHILD_SETTLE_END (R58). -/
def execChildSettleEnd (c : Side) (s : State) : Out := onTimer (s.child.recs.get c).settleDue (settleChild c) s

/-- Overcurrent of a child driver (R11, R58). -/
def overcurrentChild (c : Side) (s : State) : State :=
  match s.stages.children.get c with
  | .drive _ => failChild c .short (s.setStage (.child c) .off)
  | _ => s

/-! ### Requests (R59 to R61) -/

/-- The state a child lock is heading for (R59). -/
def State.intended (s : State) (c : Side) : ChildPos :=
  match s.entry? (.child c), s.drive? (.child c) with
  | some e, _ => childTarget e.dir
  | none, some d => childTarget d.dir
  | none, none => (s.child.recs.get c).state

/-- A TOGGLE resolves to ENGAGE unless every side asked for is intended ENGAGED (R59). -/
def State.toggle (s : State) (sides : List Side) : Action :=
  if sides.all fun c => s.intended c == .engaged then .childDisengage else .childEngage

/-- A child lock operation (R59, R61): crash, table space, then the group. -/
def childOperation (source : Source) (port : Option Port) (sides : List Side) (act : Action) (s : State) :
    State × Result × Nat :=
  if s.crash.latched then (s, .crashActive, 0)
  else if s.tableFull then (s, .busy, 0)
  else
    runGroup { source := source, port := port, cls := .occupant, action := act, members := sides.map .child
               pattern := if act = .childEngage then some 6 else some 7 } s

/-- The side byte of CHILD_LOCK (R59). -/
def sidesOf (b : Byte) : Option (List Side) :=
  if b = 0 then some [.left] else if b = 1 then some [.right] else if b = 2 then some [.left, .right] else none

/-- CHILD_LOCK as the child lock unit takes it (R59). -/
def childLockOwner : Owner := fun p payload s =>
  match payload with
  | [side, action] =>
    match sidesOf side, action.toNat with
    | some cs, 0 => groupReply (childOperation .bodyPort (some p) cs .childEngage s)
    | some cs, 1 => groupReply (childOperation .bodyPort (some p) cs .childDisengage s)
    | some cs, 2 => groupReply (childOperation .bodyPort (some p) cs (s.toggle cs) s)
    | _, _ => refuseGroup .badArgument s
  | _ => refuseGroup .badArgument s

/-- CHILD_LOCK (R59). -/
def execChildLock (dt : Time) (p : Port) (payload : List Byte) (s : State) : Out :=
  onRequest dt p 0x21 payload childLockOwner s

/-- A press of CHILD_BUTTON (R60). -/
def takeChildButton (s : State) : State :=
  (childOperation .childButton none Side.list (s.toggle Side.list) s).1

/-- CHILD_BUTTON_PRESS (R60); the release has no effect. -/
def execChildButtonPress (dt : Time) (pressed : Bool) (s : State) : Out :=
  onMaskedInput dt 6 id (fun s => if pressed then takeChildButton s else s) s

/-! ### The global rear inhibit flag (R62) -/

/-- The flag takes a value; a change captures CHILD_CHANGED, is written and evaluates both sides (R62). -/
def setRearInhibit (v : Bool) (s : State) : State :=
  if s.child.rearInhibit = v then s
  else
    let s := offer .childChanged (s.withChild { s.child with rearInhibit := v })
    evalInhibits (writeStateByte 2 (boolByte v) s)

/-- WINDOW_LOCK_BUTTON_PRESS (R62). -/
def execWindowLockButtonPress (dt : Time) (pressed : Bool) (s : State) : Out :=
  onMaskedInput dt 7 id (fun s => if pressed then setRearInhibit (!s.child.rearInhibit) s else s) s

/-- REAR_INHIBIT as the child lock unit takes it (R62). -/
def rearInhibitOwner : Owner := fun _ payload s =>
  match payload with
  | [b] =>
    match boolOf b with
    | some v => (setRearInhibit v s, Reply.of .ok)
    | none => refuse .badArgument s
  | _ => refuse .badArgument s

/-- REAR_INHIBIT (R62). -/
def execRearInhibit (dt : Time) (p : Port) (payload : List Byte) (s : State) : Out :=
  onRequest dt p 0x22 payload rearInhibitOwner s

end Sys2Proof.Machine
end

