-- ==== Sys2Proof/Machine/Crash.lean ====
section
/-! DEFINITION. The crash unit (R147 to R158): the CRASH latch, the crash-line decoder, CRASH_NOTICE and CRASH_CLEAR. -/

namespace Sys2Proof.Machine

/-! ### The crash record (R147) -/

/-- Both fields of the crash record take values and the STATE row is written (R147, section 9.6), its other bytes as the shadow
holds them, the model's choice (log 46). -/
def setCrash (latched : Bool) (severity : Nat) (s : State) : State :=
  storeWrite stateRow (((s.row stateRow).set 0 (boolByte latched)).set 1 (byteOf severity))
    (s.withCrash { s.crash with latched := latched, severity := severity })

/-! ### Taking a crash (R152 to R157) -/

/-- A CRASH_UNLOCK group (R153), or its entries without a group (R35): the group id. -/
def crashUnlock (port : Option Port) (members : List Actuator) (s : State) : State × Nat :=
  runInternal { source := .crash, port := port, cls := .crash, action := .crashUnlock, members := members
                pattern := none } s

/-- The latches whose state is not UNLOCKED (R156, R157). -/
def State.lockedLatches (s : State) : List Actuator :=
  (Latch.list.filter fun l => (s.latches.get l).state != .unlocked).map .lock

/-- CRASH_UNLOCK of the latches not UNLOCKED; nothing when there is none (R156, R157). A group that opens in PARK returns
the part to RUN first (R201; log 40). -/
def unlockLocked (port : Option Port) (s : State) : State × Nat :=
  match s.lockedLatches with
  | [] => (s, 0)
  | ms => crashUnlock port ms (wake s)

/-- The queue keeps no LOCK or DEADLOCK entry after step 3 of a crash (R152; the order of the latches is log 38's). -/
def dismissAllLocking (s : State) : State := Latch.list.foldl (fun s l => dismissLocking l s) s

/-- A crash taken with the latch clear, steps 1 to 6 (R152). -/
def latchCrash (port : Option Port) (severity : Nat) (s : State) : State × Nat :=
  let s := offer .crashLatched (setCrash true severity s)
  let x := crashUnlock port allLatches (s.withPresses { s.presses with relockDue := none })
  (silence (crashAccess (crashWindows (dismissAllLocking x.1))), x.2)

/-- A further crash (R156). -/
def furtherCrash (port : Option Port) (severity : Nat) (s : State) : State × Nat :=
  let v := max s.crash.severity severity
  let s := if v = s.crash.severity then s else setCrash true v s
  unlockLocked port (s.withPresses { s.presses with relockDue := none })

/-- A crash, from the line with severity 0 or from a notice (R152, R156). -/
def takeCrash (port : Option Port) (severity : Nat) (s : State) : State × Nat :=
  if s.crash.latched then furtherCrash port severity s else latchCrash port severity s

/-- A crash decoded from the line; in STARTING it is held (R148). -/
def lineCrash (s : State) : State :=
  if s.sys.mode = .starting then s.withCrash { s.crash with held := true } else (takeCrash none 0 s).1

/-! ### The decoder (R148 to R150) -/

/-- The gap before a measured low that began at `fall` is valid: 8 to 12 ms (R149). With a pulse count of 0 the answer is of
no consequence (log 43). -/
def CrashUnit.gapValid (c : CrashUnit) (fall : Time) : Bool :=
  c.lastRise + msec 8 ≤ fall && fall ≤ c.lastRise + msec 12

/-- A low has lasted 1 ms (R148): wake source, LOW, and the gap before it judged (R149; log 24). A low that began before the
release of the last reset was under way at the first reading, which gives FAULT. -/
def measureLow (s : State) : State :=
  let fall := s.now - msec 1
  match s.crash.line with
  | .idle =>
    if s.now < s.crash.watchedFrom + msec 1 then s.withCrash { s.crash with line := .fault }
    else
      let s := wake s
      s.withCrash { s.crash with line := .low, lowStart := fall
                                 count := if s.crash.gapValid fall then s.crash.count else 0 }
  | _ => s

/-- CRASH_LINE_LOW_MEASURED (R148), 1 ms after the falling edge. -/
def execCrashLineLowMeasured (dt : Time) (s : State) : Out :=
  onReport dt measureLow (s.withPins { s.pins with crashLow := true })

/-- The rising edge that ends a measured low (R149). -/
def endLow (s : State) : State :=
  match s.crash.line with
  | .low =>
    let len := s.now - s.crash.lowStart
    if msec 100 ≤ len then s.withCrash { s.crash with line := .fault, count := 0 }
    else if msec 8 ≤ len ∧ len ≤ msec 12 then
      let third := s.crash.count == 2
      let s := s.withCrash { s.crash with line := .idle, lastRise := s.now
                                          count := if third then 0 else s.crash.count + 1 }
      if third then lineCrash s else s
    else s.withCrash { s.crash with line := .idle, count := 0 }
  | _ => s

/-- CRASH_LINE_LOW_END (R149). -/
def execCrashLineLowEnd (dt : Time) (s : State) : Out :=
  onReport dt endLow (s.withPins { s.pins with crashLow := false })

/-- The instant at which a measured low is a line fault (R149). -/
def State.lineFaultDue (s : State) : Timer := if s.crash.line = .low then some (s.crash.lowStart + msec 100) else none

/-- CRASH_LINE_FAULT (R149). -/
def execCrashLineFault (s : State) : Out :=
  onTimer s.lineFaultDue (fun s => s.withCrash { s.crash with line := .fault, count := 0 }) s

/-- The instant 12 ms after the last valid pulse, while the count stands and no low is measured (R149). -/
def State.gapDue (s : State) : Timer :=
  if s.crash.line = .idle ∧ 0 < s.crash.count then some (s.crash.lastRise + msec 12) else none

/-- CRASH_GAP_TIMEOUT (R149). -/
def execCrashGapTimeout (s : State) : Out := onTimer s.gapDue (fun s => s.withCrash { s.crash with count := 0 }) s

/-- CRASH_LINE_GLITCH_END (R149): a glitch under way at the 12 ms mark ends. -/
def execCrashLineGlitchEnd (dt : Time) (s : State) : Out :=
  onReport dt
    (fun s =>
      match s.gapDue with
      | some t => if t ≤ s.now then s.withCrash { s.crash with count := 0 } else s
      | none => s)
    (s.withPins { s.pins with crashLow := false })

/-- CRASH_LINE_RECOVERY (R150): the line has been high for 1 ms in FAULT. -/
def execCrashLineRecovery (dt : Time) (s : State) : Out :=
  onReport dt
    (fun s => if s.crash.line = .fault then s.withCrash { s.crash with line := .idle, count := 0 } else s)
    (s.withPins { s.pins with crashLow := false })

/-! ### Requests (R151, R158) -/

/-- CRASH_NOTICE as the crash unit takes it (R151). -/
def crashNoticeOwner : Owner := fun p payload s =>
  match payload with
  | [b] =>
    if 1 ≤ b.toNat ∧ b.toNat ≤ 3 then
      let x := takeCrash (some p) b.toNat s
      (x.1, { result := .ok, payload := [byteOf x.2] })
    else refuse .badArgument s
  | _ => refuse .badArgument s

/-- CRASH_NOTICE (R151). -/
def execCrashNotice (dt : Time) (p : Port) (payload : List Byte) (s : State) : Out :=
  onRequest dt p 0x60 payload crashNoticeOwner s

/-- CRASH_CLEAR as the crash unit takes it (R158). -/
def crashClearOwner : Owner := fun _ payload s =>
  if payload ≠ [] then refuse .badArgument s
  else if s.ctx.ignition ≠ .off then refuse .ignitionState s
  else if s.crash.latched then (offer .crashCleared (setCrash false 0 s), Reply.of .ok)
  else refuse .ok s

/-- CRASH_CLEAR (R158). -/
def execCrashClear (dt : Time) (p : Port) (payload : List Byte) (s : State) : Out :=
  onRequest dt p 0x72 payload crashClearOwner s

end Sys2Proof.Machine
end

