-- ==== Sys2Proof/Machine/Store.lean ====
section
/-! DEFINITION. The store (R168 to R182): row programming, the start-up scan, configuration staging and commit. -/

namespace Sys2Proof.Machine

/-! ### Row programming (R171 to R174) -/

/-- The supply gate (R171). -/
def State.supplyGate (s : State) : Bool :=
  match s.supply.vf with
  | some v => 8000 ≤ v
  | none => false

/-- A program starts (R171). -/
def startProgram (l : LRow) (rest : List LRow) (s : State) : State :=
  let sh := s.store.shadows[l]
  s.withStore { s.store with
    queue := rest
    program := some { row := l, content := sh.content, generation := sh.generation + 1, target := sh.current
                      due := s.now + msec 5 } }

/-- ROW_PROGRAM_START (R171): without effect unless its conditions hold. -/
def execRowProgramStart (s : State) : Out :=
  finish
    (fun s =>
      match s.store.queue with
      | l :: rest =>
        if s.store.program.isNone ∧ s.sys.mode ≠ .park ∧ s.supplyGate then startProgram l rest s else s
      | [] => s)
    s

/-- The lowest-numbered FREE spare (R173). -/
def freeSpare (m : Vector RowCond 48) : Option PRow := (List.finRange 48).find? fun r => m[r] == .free

/-- A successful verify (R172). -/
def programDone (g : Program) (s : State) : State :=
  s.withStore { s.store with
    program := none
    shadows := s.store.shadows.set g.row
      { s.store.shadows[g.row] with generation := g.generation, current := g.target } }

/-- The relocation to a spare within the same program (R173). -/
def relocate (g : Program) (r : PRow) (s : State) : State :=
  s.withStore { s.store with
    map := s.store.map.set r .inUse
    shadows := s.store.shadows.set g.row { s.store.shadows[g.row] with current := r }
    program := some { g with generation := g.generation + 1, target := r, due := s.now + msec 5 } }

/-- No FREE spare remains: the row becomes volatile (R174). -/
def exhaust (g : Program) (s : State) : State :=
  offer .storeExhausted (s.withStore { s.store with
    program := none
    queue := s.store.queue.filter (· != g.row)
    shadows := s.store.shadows.set g.row { s.store.shadows[g.row] with isVolatile := true } })

/-- A verify failure (R173, R174). -/
def programFailed (g : Program) (s : State) : State :=
  let s := offer .storeRetired (s.withStore { s.store with map := s.store.map.set g.target .retired })
  match freeSpare s.store.map with
  | some r => relocate g r s
  | none => exhaust g s

/-- The end of a program attempt, `readback` being what the row reads back as when it is not what was written (R172, R173;
log 12). -/
def endProgram (g : Program) (readback : Option PhysRow) (s : State) : State :=
  let written := rowBytes g.row g.generation g.content
  let found := readback.getD written
  let s := s.withStore { s.store with array := s.store.array.set g.target found }
  if found = written then programDone g s else programFailed g s

/-- ROW_PROGRAM_END (R172). -/
def execRowProgramEnd (readback : Option PhysRow) (s : State) : Out :=
  match s.store.program with
  | none => .next s
  | some g => onTimer (some g.due) (endProgram g readback) s

/-! ### The start-up scan (R177 to R179) -/

/-- A claim as the scan reads it. -/
structure Claim where
  phys : PRow
  row : LRow
  generation : Byte
  payload : Content
  deriving DecidableEq, Repr

/-- The claims of the array in ascending order of physical row (R168, R177). -/
def claimsOf (array : Vector PhysRow 48) : List Claim :=
  (List.finRange 48).filterMap fun r =>
    array[r].claim.map fun c => { phys := r, row := c.1, generation := c.2.1, payload := c.2.2 }

/-- The winning claim of a logical row (R177). -/
def winningClaim (claims : List Claim) (l : LRow) : Option Claim :=
  (claims.filter (·.row == l)).foldl
    (fun held c =>
      match held with
      | none => some c
      | some h => if newer c.generation h.generation then some c else some h)
    none

/-- The condition of a physical row by its own claim and its home row (R178). -/
def scannedCond (claims : List Claim) (r : PRow) : RowCond :=
  match claims.find? (·.phys == r) with
  | some c => if (winningClaim claims c.row).any (·.phys == r) then .inUse else .retired
  | none =>
    if h : r.val < 35 then (if (winningClaim claims ⟨r.val, h⟩).isSome then .retired else .inUse) else .free

/-- The home row of a logical row (R168). -/
def homeRow (l : LRow) : PRow := Fin.castLE (by decide) l

/-- The current row of a lost row: its home unless it is RETIRED or another row's, else the lowest FREE spare, else none
(R178). -/
def lostRow (claims : List Claim) (l : LRow) (m : Vector RowCond 48) : Vector RowCond 48 × Option PRow :=
  if claims.any (·.phys == homeRow l) then
    match freeSpare m with
    | some r => (m.set r .inUse, some r)
    | none => (m, none)
  else (m, some (homeRow l))

/-- The shadow of a logical row after the scan, and the map with the spare it may take (R177, R178). A row that is volatile
from the start has its home row as current row (log 44). -/
def scannedRow (claims : List Claim) (l : LRow) (x : Vector RowCond 48 × Vector Shadow 35) :
    Vector RowCond 48 × Vector Shadow 35 :=
  match winningClaim claims l with
  | some c =>
    (x.1, x.2.set l { content := c.payload, current := c.phys, generation := c.generation, isVolatile := false })
  | none =>
    let y := lostRow claims l x.1
    (y.1, x.2.set l
      { content := defaultContent l, current := y.2.getD (homeRow l), generation := 0, isVolatile := y.2.isNone })

/-- The configuration rows after the scan: factory image when one of them is lost, then limited (R179). -/
def loadConfig (lost : List LRow) (shadows : Vector Shadow 35) : Vector Shadow 35 :=
  let stored : Image := padBytes 52 ((List.finRange 4).flatMap fun i =>
    (shadows[(Fin.castLE (by decide) i : LRow)]).content.toList)
  let img := (if lost.any (·.val ≤ 3) then factoryImage else stored).limited
  (List.finRange 4).foldl
    (fun t i =>
      let l : LRow := Fin.castLE (by decide) i
      t.set l { t[l] with content := img.part i.val })
    shadows

/-- The store after the start-up scan of an array (R177 to R179); the lost rows take FREE spares in ascending order of their
numbers (log 44). -/
def scanStore (t : Store) : Store :=
  let claims := claimsOf t.array
  let lost := (List.finRange 35).filter fun l => (winningClaim claims l).isNone
  let x := (List.finRange 35).foldl (fun x l => scannedRow claims l x) (tableOf 48 (scannedCond claims), t.shadows)
  { t with map := x.1, shadows := loadConfig lost x.2, lost := lost }

/-- The end of the scan: RECORD_LOST is captured when a row is lost (R178). -/
def endScan (s : State) : State :=
  let s := (s.withStore (scanStore s.store)).withSys { s.sys with scanDue := none }
  if s.store.lost.isEmpty then s else offer .recordLost s

/-- STARTUP_SCAN_END (R177). -/
def execStartupScanEnd (s : State) : Out := onTimer s.sys.scanDue endScan s

/-! ### Staging and commit (R180 to R182) -/

/-- The staging image, copied from the live image when CLOSED (R180, R181). -/
def State.staged (s : State) : Image := s.store.staging.getD s.cfg

/-- Bytes written from an offset on; bytes beyond byte 51 are ignored (R180). -/
def stageBytes (img : Image) (off : Nat) (data : List Byte) : Image :=
  padBytes 52 (img.toList.take off ++ data ++ img.toList.drop (off + data.length))

/-- STAGE_CONFIG as the store takes it (R180). -/
def stageOwner : Owner := fun _ payload s =>
  match payload with
  | off :: data =>
    if data.length < 1 ∨ 12 < data.length ∨ 51 < off.toNat then refuse .badArgument s
    else if s.effSpeed = .moving then refuse .moving s
    else
      (s.withStore { s.store with staging := some (stageBytes s.staged off.toNat data) },
        { result := .ok, payload := [byteOf (min data.length (52 - off.toNat))] })
  | [] => refuse .badArgument s

/-- STAGE_CONFIG (R180). -/
def execStageConfig (dt : Time) (p : Port) (payload : List Byte) (s : State) : Out :=
  onRequest dt p 0x70 payload stageOwner s

/-- The four rows of a new live image are written in order (R182). -/
def writeImage (img : Image) (s : State) : State :=
  storeWrite 3 (img.part 3) (storeWrite 2 (img.part 2) (storeWrite 1 (img.part 1) (storeWrite 0 (img.part 0) s)))

/-- A matching commit takes effect (R182). -/
def commitImage (img : Image) (s : State) : State :=
  let link := s.cfg.childLink
  let s := offer .configCommitted (writeImage img (s.withStore { s.store with staging := none }))
  if img.childLink = link then s else evalInhibits s

/-- COMMIT_CONFIG as the store takes it (R181). -/
def commitOwner : Owner := fun _ payload s =>
  match payload with
  | [check] =>
    if s.effSpeed = .moving then refuse .moving s
    else if crc8 s.staged.toList ≠ check then
      (offer .configRejected (s.withStore { s.store with staging := none }), Reply.of .checkMismatch)
    else
      let count := min 255 (s.cfg.commitCount + 1)
      let img := s.staged.limited.withCount count
      (commitImage img s,
        { result := if s.staged.limited = s.staged then .ok else .clamped, payload := [byteOf count] })
  | _ => refuse .badArgument s

/-- COMMIT_CONFIG (R181). -/
def execCommitConfig (dt : Time) (p : Port) (payload : List Byte) (s : State) : Out :=
  onRequest dt p 0x71 payload commitOwner s

end Sys2Proof.Machine
end

