-- ==== Sys2Proof/Machine/Modes.lean ====
section
/-! DEFINITION. The mode controller: resets, the end of STARTING with the derivation of every record (R199), PARK (R200) and
RESTART (R194). -/

namespace Sys2Proof.Machine

/-! ### Derivation of the records in STARTING (R25, R55, R62, R66, R70, R115, R147) -/

/-- A latch record from its inputs and its deadlock bit (R25). -/
def deriveLatch (l : Latch) (s : State) : State :=
  let pos := s.pins.latchpos.get l
  let dead : Bool := (deadBit l).any fun n => s.deadlockBits.getLsbD n
  let st : LatchState :=
    match pos with
    | .unlocked => .unlocked
    | .locked => if dead then .deadlocked else .locked
  let s := s.modLatch l fun _ =>
    { LatchRec.reset with state := st, position := pos, ajar := s.pins.ajar.get l }
  match deadBit l with
  | some n => if dead && pos == .unlocked then writeStateByte 3 (setBit s.deadlockBits n false) s else s
  | none => s

/-- A child lock record from its input; a differing copy is rewritten (R55). -/
def deriveChild (c : Side) (s : State) : State :=
  let pos := s.pins.chpos.get c
  let s := s.modChild c fun _ => { ChildRec.reset with state := pos, position := pos }
  if s.childCopies.getLsbD (childBit c) == (pos == .engaged) then s
  else writeStateByte 4 (setBit s.childCopies (childBit c) (pos == .engaged)) s

/-- The global flag from the STATE row, and the effective rear inhibit of both sides (R55, R62, R63). -/
def deriveInhibit (s : State) : State :=
  let s := s.withChild { s.child with rearInhibit := (s.row stateRow)[2] == 1 }
  s.withChild { s.child with effective := { left := s.inhibitOf .left, right := s.inhibitOf .right } }

/-- A stored Ref entry: one that is neither 0 nor within 200..20000 is taken as 0 (R113). -/
def validRef (x : Nat) : Nat := if 200 ≤ x ∧ x ≤ 20000 then x else 0

/-- The `n`-th 16-bit field of a byte list from `off` on. -/
def field16 (l : List Byte) (off n : Nat) : Nat := nat16 (l.getD (off + 2 * n) 0) (l.getD (off + 2 * n + 1) 0)

/-- The Ref entries of the six rows of a window (R113, section 9.6). -/
def State.storedRefs (s : State) (w : Win) : List Nat :=
  (List.range 6).flatMap fun r =>
    let bytes := (s.row (w.row r)).toList
    (List.range (refSpan r).2).map fun n => validRef (field16 bytes (if r = 0 then 3 else 0) n)

/-- One of the window's six rows was lost at the scan (R66). -/
def State.profileLost (s : State) (w : Win) : Bool := (List.range 6).any fun r => s.store.lost.contains (w.row r)

/-- A stored Pmax outside 600..2047 reads absent (R178). -/
def validPmax (x : Nat) : Option Nat := if 600 ≤ x ∧ x ≤ 2047 then some x else none

/-- A window record and its profile from the six shadows (R66). -/
def deriveWindow (w : Win) (s : State) : State :=
  let first := (s.row (w.row 0)).toList
  let pmax := if s.store.lost.contains (w.row 0) then none else validPmax (field16 first 0 0)
  let lost := s.profileLost w
  let norm : Norm := if !lost && pmax.isSome && first.getD 2 0 == 1 then .positionLost else .unlearned
  let refs : Vector Nat 32 :=
    if lost then Vector.replicate 32 0 else tableOf 32 fun z => (s.storedRefs w).getD z.val 0
  (s.modWindow w fun _ => { WindowRec.reset with pmax := pmax, norm := norm }).setProfile w refs

/-- A switch channel from its first reading (R70). -/
def deriveChan (c : Chan) (s : State) : State :=
  let pos := decodeLadder (s.pins.ladders.get c)
  s.modChan c fun _ => { position := pos, waiting := pos != .neutral }

/-- A slot as its row alone gives it (R115, R178). -/
def slotFromRow (c : Content) : Fob :=
  let l := c.toList
  let kept (st : FobState) : Fob :=
    let k := word32 (l.getD 4 0) (l.getD 5 0) (l.getD 6 0) (l.getD 7 0)
    { Fob.reset with state := st, ident := word32 (l.getD 0 0) (l.getD 1 0) (l.getD 2 0) (l.getD 3 0), counter := k
                     ceiling := k + 32, mode := if l.getD 9 0 = 1 then .global else .selective
                     comfort := l.getD 10 0 == 1 }
  let b := l.getD 8 0
  if b = 0 then Fob.reset
  else if b = 1 then kept .active
  else if b = 2 then kept .suspended
  else { Fob.reset with state := .invalid }

/-- A slot is derived: an identifier that a lower-numbered slot keeps makes it INVALID (R115). -/
def deriveSlot (k : SlotId) (s : State) : State :=
  let f := slotFromRow (s.row k.row)
  let taken := SlotId.list.any fun j =>
    j.index < k.index && (s.fobs.get j).enrolled && (s.fobs.get j).ident == f.ident
  s.modFob k fun _ => if f.enrolled && taken then { Fob.reset with state := .invalid } else f

/-- The row of a slot left ACTIVE or SUSPENDED is written with its new K (R115). -/
def rewriteSlot (k : SlotId) (s : State) : State := if (s.fobs.get k).enrolled then writeFob k s else s

/-- The fob table (R115). The rule gives the rows of the slots left ACTIVE or SUSPENDED no order; they join the store queue in
ascending slot number, the model's choice (log 45). -/
def deriveFobs (s : State) : State :=
  SlotId.list.foldl (fun s k => rewriteSlot k s) (SlotId.list.foldl (fun s k => deriveSlot k s) s)

/-- The crash record (R147); values outside the lists read as the defaults (R178). -/
def deriveCrash (s : State) : State :=
  let sev := (s.row stateRow)[1].toNat
  s.withCrash { s.crash with latched := (s.row stateRow)[0] == 1, severity := if sev ≤ 3 then sev else 0 }

/-- Every record is derived from the first readings and the shadows (R199, step 2). The first readings are the pins at this
moment: each holds the last level its input was given, be it held for the debounce time or not (R199, step 1; log 18). -/
def deriveRecords (s : State) : State :=
  let s := s.withSys { s.sys with dside := s.pins.dside }
  let s := Latch.list.foldl (fun s l => deriveLatch l s) s
  let s := Side.list.foldl (fun s c => deriveChild c s) s
  let s := deriveInhibit s
  let s := Win.list.foldl (fun s w => deriveWindow w s) s
  let s := Chan.list.foldl (fun s c => deriveChan c s) s
  deriveCrash (deriveFobs s)

/-- The crash unlock of a latched crash, then a crash decoded in STARTING (R157; R199, step 3). -/
def startCrash (s : State) : State :=
  let s := if s.crash.latched then (unlockLocked none s).1 else s
  if s.crash.held then
    let s := s.withCrash { s.crash with held := false }
    (takeCrash none 0 s).1
  else s

/-- The end of STARTING (R199); the scan is complete by then. -/
def endStarting (s : State) : State :=
  let s := if s.sys.scanDue.isSome then endScan s else s
  let s := startCrash (deriveRecords (s.withSys { s.sys with startDue := none }))
  let s := s.withSys { s.sys with mode := .run }
  startPlayback (offer .powerOn s)

/-- STARTING_END (R199). -/
def execStartingEnd (s : State) : Out := onTimer s.sys.startDue endStarting s

/-! ### Resets (R194, R199) -/

/-- POWER_ON_RESET (R199): the supply applied from absent, the inputs at the given levels. -/
def execPowerOnReset (pins : Pins) (s : State) : Out :=
  .next (State.afterReset .powerOn s.now s.pending pins s.store.arrayAfterReset)

/-- RESTART as it is taken (R194; log 30). -/
def restartOwner : Owner := fun _ payload s =>
  if payload ≠ [] then refuse .badArgument s
  else if s.sys.restartPending then refuse .ok s
  else if s.ctx.ignition ≠ .off then refuse .ignitionState s
  else if !s.arb.queue.isEmpty || !s.arb.running.isEmpty || !s.arb.holds.isEmpty then refuse .busy s
  else (s.withSys { s.sys with restartPending := true }, Reply.of .ok)

/-- RESTART (R194). -/
def execRestart (dt : Time) (p : Port) (payload : List Byte) (s : State) : Out :=
  onRequest dt p 0x73 payload restartOwner s

/-- RESTART_RESET (R194): the store queue is empty and no row program is in flight. -/
def execRestartReset (s : State) : Out :=
  .next (if s.sys.restartPending ∧ s.store.queue = [] ∧ s.store.program.isNone then resetPart .restart s else s)

/-! ### PARK (R200, R201) -/

/-- One of wake mask bits 0 to 5 is set (R200). -/
def State.wakeable (s : State) : Bool := (List.range 6).any s.cfg.wakeBit

/-- The park idle timer reaches the park delay (R200). -/
def takeParkIdle (s : State) : State :=
  if s.wakeable then
    (s.withSys { s.sys with mode := .park, park := .stopped }).withSupply
      { s.supply with sampleDue := s.now + msec 100 }
  else offer .parkBlocked (s.withSys { s.sys with park := .atLimit })

/-- PARK_IDLE_EXPIRY (R200). -/
def execParkIdleExpiry (s : State) : Out :=
  match s.sys.park with
  | .running t => onTimer (some t) takeParkIdle s
  | _ => .next s

end Sys2Proof.Machine
end

