-- ==== Sys2Proof/Machine/StageReports.lean ====
section
/-! DEFINITION. The reports of the output stages to their owners (R11, R12). -/

namespace Sys2Proof.Machine

/-- An overcurrent report handed to the owner of the stage (R11). -/
def takeOvercurrent (a : Actuator) (s : State) : State :=
  match a with
  | .lock l => overcurrentLock l s
  | .child c => overcurrentChild c s
  | .release => overcurrentRelease s
  | .window w => overcurrentWindow w s

/-- STAGE_OVERCURRENT (R11). -/
def execStageOvercurrent (dt : Time) (a : Actuator) (s : State) : Out := onReport dt (takeOvercurrent a) s

/-- A stage is energized. -/
def State.driven (s : State) (a : Actuator) : Bool :=
  match s.stages.get a with
  | .drive _ => true
  | _ => false

/-- A stall report (R12): it ends the energized period of a lock motor (R28) or a child actuator (R57); the release and the
windows do not use it. -/
def takeStageStall (a : Actuator) (openLoad : Bool) (s : State) : State :=
  if s.driven a then
    match a with
    | .lock l => endEnergizedLock l openLoad s
    | .child c => endEnergizedChild c openLoad s
    | _ => s
  else s

/-- STAGE_STALL (R12). -/
def execStageStall (dt : Time) (a : Actuator) (openLoad : Bool) (s : State) : Out :=
  onReport dt (takeStageStall a openLoad) s

end Sys2Proof.Machine
end

