-- ==== Sys2Proof/Machine/Status.lean ====
section
/-! DEFINITION. READ_STATUS and the status records (R193, section 10.5), CLEAR_EVENTS and SET_EVENT_ENABLE (R198). -/

namespace Sys2Proof.Machine

/-! ### Field codes (section 10.5) -/

def codeLatchState : LatchState → Byte
  | .unlocked => 0
  | .locked => 1
  | .deadlocked => 2

def codeAjar : Ajar → Byte
  | .closed => 0
  | .opened => 1

def codeLockPos : LockPos → Byte
  | .unlocked => 0
  | .locked => 1

def codePhase : Phase → Byte
  | .idle => 0
  | .queued => 1
  | .driving => 2
  | .settling => 3

def codeFault : DriveFault → Byte
  | .none => 0
  | .noConfirm => 1
  | .openLoad => 2
  | .short => 3

def codeReleaseOutcome : ReleaseOutcome → Byte
  | .none => 0
  | .opened => 1
  | .noOpen => 2
  | .openLoad => 3
  | .short => 4

def codeChildPos : ChildPos → Byte
  | .disengaged => 0
  | .engaged => 1

def codeRunState : RunState → Nat
  | .stopped => 0
  | .queued => 1
  | .runUp => 2
  | .runDown => 3
  | .brake => 4
  | .reversing => 5
  | .faulted => 6

def codeNorm : Norm → Nat
  | .unlearned => 0
  | .positionLost => 1
  | .learned => 2

def codeNormPhase : NormPhase → Nat
  | .none => 0
  | .normUp => 1
  | .normDown => 2

def codeMode : Option WMode → Nat
  | none => 0
  | some .manual => 1
  | some .auto => 2
  | some (.target _) => 3

/-- Movement sources of the WINDOW record; other names never move a window. -/
def codeWindowSource : Option Source → Nat
  | some .switchDriver => 1
  | some .switchLocal => 2
  | some .bodyPort => 3
  | some .radioPort => 4
  | some .restraintPort => 5
  | some .comfort => 6
  | some .normalize => 7
  | _ => 0

def codeClass : Option Cls → Nat
  | none => 0
  | some c => c.rank

def codeWFault : WFault → Nat
  | .none => 0
  | .hallFault => 1
  | .overcurrent => 2
  | .normFailed => 3

def codeOutcome : RevOutcome → Nat
  | .none => 0
  | .complete => 1
  | .interrupted => 2

def codeStop : StopCause → Byte
  | .none => 0x00
  | .target => 0x01
  | .released => 0x02
  | .stopRequest => 0x03
  | .top => 0x04
  | .bottom => 0x05
  | .pinch => 0x06
  | .blocked => 0x07
  | .revoked => 0x08
  | .timeout => 0x09
  | .hallFault => 0x0A
  | .crash => 0x0B
  | .overcurrent => 0x0C

def codeVerdict : Verdict → Byte
  | .none => 0
  | .accepted => 1
  | .resynced => 2
  | .repeated => 3
  | .stale => 4
  | .resyncPending => 5
  | .suspended => 6

/-- Group sources (section 10.5, note 2); other names have no group. -/
def codeGroupSource : Source → Byte
  | .bodyPort => 0
  | .fob => 1
  | .passive => 2
  | .keyCylinder => 3
  | .centralButton => 4
  | .autoRelock => 5
  | .ignition => 6
  | .crash => 7
  | .childButton => 8
  | _ => 0xFF

def codeAction : Action → Byte
  | .lockAll => 0
  | .unlockAll => 1
  | .unlockDriver => 2
  | .unlockDoor => 3
  | .deadlockAll => 4
  | .lockTg => 5
  | .unlockTg => 6
  | .crashUnlock => 7
  | .childEngage => 8
  | .childDisengage => 9

def codeZone : Zone → Byte
  | .outsideFL => 0
  | .outsideFR => 1
  | .outsideRear => 2
  | .inside => 3

def codeSearchState : SearchState → Byte
  | .none => 0
  | .inFlight => 1
  | .ended => 2

def codeSearchOutcome : SearchOutcome → Byte
  | .found => 0
  | .notFound => 1
  | .timeout => 2
  | .crash => 3

/-- Note 3 of section 10.5. -/
def codeSearchAction : SearchAction → Byte
  | .none => 0xF0
  | .noFob => 0xF1
  | .zoneMismatch => 0xF2
  | .keyInside => 0xF3
  | .code r => r.code

def codeBand : Band → Byte
  | .normal => 0
  | .under => 1
  | .over => 2

def codeModeByte : Mode → Byte
  | .starting => 0
  | .run => 1
  | .park => 2

def codeCause : ResetCause → Byte
  | .powerOn => 0
  | .brownOut => 1
  | .restart => 2

def codeIgnition : Ignition → Byte
  | .off => 0
  | .acc => 1
  | .run => 2

def codeSpeed : Speed → Byte
  | .standstill => 0
  | .moving => 1

def codeDside : DriverSide → Byte
  | .left => 0
  | .right => 1

/-- A present byte, FFh when absent. -/
def orFF {α : Type} (f : α → Byte) (x : Option α) : Byte :=
  match x with
  | some a => f a
  | none => 0xFF

/-- The bit of a member in LAST_GROUP (section 10.5). -/
def memberBit : Actuator → Nat
  | .lock .fl => 1
  | .lock .fr => 2
  | .lock .rl => 4
  | .lock .rr => 8
  | .lock .tg => 16
  | .child .left => 32
  | .child .right => 64
  | _ => 0

def memberSet (l : List Actuator) : Byte := byteOf ((l.map memberBit).sum)

/-! ### The records (section 10.5) -/

/-- The drive phase of the tailgate release (R52). -/
def State.releasePhase (s : State) : Byte :=
  match s.phase .release with
  | .idle => 0
  | .queued => 1
  | _ => 2

def State.latchStatus (s : State) (l : Latch) : List Byte :=
  let r := s.latches.get l
  [codeLatchState r.state, codeAjar r.ajar, codeLockPos r.position, codePhase (s.phase (.lock l)), byteOf r.attempts,
    codeFault r.fault, byteOf r.heat, boolByte r.hot]
  ++ (if l = .tg then [s.releasePhase, boolByte s.release.watchDue.isSome, codeReleaseOutcome s.release.last]
      else [0, 0, 0])

def State.childStatus (s : State) (c : Side) : List Byte :=
  let r := s.child.recs.get c
  [codeChildPos r.state, codeChildPos r.position, codePhase (s.phase (.child c)), byteOf r.attempts, codeFault r.fault,
    boolByte s.child.rearInhibit, boolByte s.cfg.childLink, boolByte (s.child.effective.get c)]

def State.windowStatus (s : State) (w : Win) : List Byte :=
  let r := s.windows.get w
  let v := (s.pinch.get w).rev
  let target := match r.mode with | some (.target t) => t | _ => 0
  [byteOf (codeRunState r.run + codeNorm r.norm * 8 + codeNormPhase r.normPhase * 32 + r.restricted.toNat * 128)]
  ++ be16 r.p ++ be16 (r.pmax.getD 0)
  ++ [byteOf (codeMode r.mode + codeWindowSource r.source * 4 + codeClass r.cls * 32)]
  ++ be16 target
  ++ [byteOf (r.reversals + codeWFault r.fault * 4 + codeOutcome v.outcome * 16), codeStop r.lastStop]
  ++ be16 (r.lastPinch.getD 0xFFFF)
  ++ [codeStop v.cause]

def State.fobStatus (s : State) (k : SlotId) : List Byte :=
  let f := s.fobs.get k
  be32 (if f.enrolled then f.ident else 0)
  ++ [f.state.stored, f.mode.code, byteOf f.failures, codeVerdict f.verdict]

def State.searchStatus (s : State) : List Byte :=
  let r := s.search
  [codeSearchState r.state, r.seq, orFF originCode r.origin, orFF byteOf r.timeout, orFF codeSearchOutcome r.outcome,
    orFF slotByte r.slot, orFF codeZone r.zone, orFF boolByte r.inside, codeSearchAction r.action, byteOf r.group]

def State.lastGroupStatus (s : State) (p : Port) : List Byte :=
  match s.groups.last.get p with
  | none => [0, 0, 0, 0, 0, 0, 0, 0xFF]
  | some g =>
    [byteOf g.id, codeGroupSource g.source, byteOf g.cls.rank, codeAction g.action, memberSet g.members,
      memberSet g.failed, memberSet g.overruled, orFF (fun i : Fin 8 => byteOf i.val) g.pattern]

def State.supplyStatus (s : State) : List Byte :=
  be16 (s.supply.vf.getD 0)
  ++ [codeBand s.supply.band, byteOf s.supply.budget, byteOf s.units, byteOf s.windowUnits]

def State.storeStatus (s : State) : List Byte :=
  [byteOf s.store.queue.length, byteOf (s.store.map.toList.countP (· == .free)), byteOf s.cfg.commitCount,
    byteOf (s.store.shadows.toList.countP (·.isVolatile)), boolByte s.store.program.isSome]

def State.systemStatus (s : State) : List Byte :=
  [codeModeByte s.sys.mode, codeCause s.sys.cause, boolByte s.crash.latched, byteOf s.crash.severity,
    boolByte (s.crash.line == .fault), codeIgnition s.ctx.ignition, codeSpeed s.ctx.speed, boolByte s.ctx.fresh,
    codeDside s.sys.dside, boolByte s.ctx.retainedDue.isSome, boolByte s.sys.restartPending]

def State.configStatus (s : State) (i : Nat) : List Byte := (s.cfg.part i).toList

def latchIndex (i : Nat) : Option Latch := Latch.list[i]?
def winIndex (i : Nat) : Option Win := Win.list[i]?
def sideIndex (i : Nat) : Option Side := Side.list[i]?
def slotIndex (i : Nat) : Option SlotId := SlotId.list[i]?

/-- The record of a kind and an index (R193). -/
def State.status (s : State) (p : Port) (kind index : Nat) : Option (List Byte) :=
  match kind, index with
  | 0, i => (latchIndex i).map s.latchStatus
  | 1, i => (sideIndex i).map s.childStatus
  | 2, i => (winIndex i).map s.windowStatus
  | 3, i => (slotIndex i).map s.fobStatus
  | 4, 0 => some s.searchStatus
  | 5, 0 => some (s.lastGroupStatus p)
  | 6, 0 => some s.supplyStatus
  | 7, 0 => some s.storeStatus
  | 8, 0 => some s.systemStatus
  | 9, i => if i ≤ 3 then some (s.configStatus i) else none
  | _, _ => none

/-- READ_STATUS as it is answered (R193). -/
def readStatusOwner : Owner := fun p payload s =>
  match payload with
  | [kind, index] =>
    match s.status p kind.toNat index.toNat with
    | some bytes => (s, { result := .ok, payload := bytes })
    | none => refuse .badArgument s
  | _ => refuse .badArgument s

/-- READ_STATUS (R193). -/
def execReadStatus (dt : Time) (p : Port) (payload : List Byte) (s : State) : Out :=
  onRequest dt p 0x01 payload readStatusOwner s

/-! ### Clearing and enabling (R198) -/

/-- CLEAR_EVENTS on a port (R198). -/
def EventRec.clear (r : EventRec) (mask : Word32) (now delay : Time) : EventRec :=
  { r with captured := r.captured &&& ~~~(mask &&& usedBits)
           delayDue := if delay = 0 then none else some (now + delay) }

/-- SET_EVENT_ENABLE on a port (R198). -/
def EventRec.enable (r : EventRec) (mask : Word32) : EventRec := { r with mask := mask &&& usedBits }

/-- CLEAR_EVENTS as the event unit takes it (R198). -/
def clearEventsOwner : Owner := fun p payload s =>
  match payload with
  | [a, b, c, d] => (s.modEvents p fun r => r.clear (word32 a b c d) s.now s.cfg.eventDelay, Reply.of .ok)
  | _ => refuse .badArgument s

/-- CLEAR_EVENTS (R198). -/
def execClearEvents (dt : Time) (p : Port) (payload : List Byte) (s : State) : Out :=
  onRequest dt p 0x02 payload clearEventsOwner s

/-- SET_EVENT_ENABLE as the event unit takes it (R198). -/
def setEventEnableOwner : Owner := fun p payload s =>
  match payload with
  | [a, b, c, d] => (s.modEvents p fun r => r.enable (word32 a b c d), Reply.of .ok)
  | _ => refuse .badArgument s

/-- SET_EVENT_ENABLE (R198). -/
def execSetEventEnable (dt : Time) (p : Port) (payload : List Byte) (s : State) : Out :=
  onRequest dt p 0x03 payload setEventEnableOwner s

/-- EVENT_DELAY_EXPIRY (R197). -/
def execEventDelayExpiry (p : Port) (s : State) : Out :=
  onTimer (s.events.get p).delayDue (fun s => s.modEvents p fun r => { r with delayDue := none }) s

end Sys2Proof.Machine
end

