-- ==== Sys2Proof/Machine/Supply.lean ====
section
/-! DEFINITION. The supply monitor (R1 to R4) and the context unit (R6 to R9). -/

namespace Sys2Proof.Machine

/-! ### V_f, band and budget (R1, R2, R4) -/

/-- The eight last samples (R1). -/
def pushSample (l : List Nat) (raw : Nat) : List Nat := (l ++ [raw]).drop (l.length + 1 - 8)

/-- V_f once eight samples exist (R1). -/
def filtered (l : List Nat) : Option Nat := if l.length = 8 then some (l.sum / 8) else none

/-- The supply band (R2). -/
def nextBand (b : Band) (v : Nat) : Band :=
  match b with
  | .normal => if v < 7000 then .under else if 16500 < v then .over else .normal
  | .under => if 16500 < v then .over else if 7500 < v then .normal else .under
  | .over => if v < 7000 then .under else if v < 16000 then .normal else .over

/-- The drive budget (R4). -/
def budgetOf (v : Nat) : Nat := min 20 ((v - 7000) / 400)

/-- The new band handed to the arbiter when it changed (R2, R18, R23). -/
def handBand (before : Band) (s : State) : State :=
  if s.supply.band = before then s
  else
    let s := offer .supplyBand s
    scan (if s.supply.band = .normal then s else revokeForSupply s)

/-- The new B handed to the arbiter when it changed: a fall revokes first (R4, R23). -/
def handBudget (before : Nat) (s : State) : State :=
  if s.supply.budget = before then s
  else scan (if s.supply.budget < before then revokeForSupply s else s)

/-- A new V_f: band and B are evaluated and their changes handed on, the band first (R2, R4; log 19). -/
def applyVf (v : Nat) (s : State) : State :=
  let before := s.supply
  handBudget before.budget (handBand before.band (markSupply
    (s.withSupply { s.supply with vf := some v, band := nextBand before.band v, budget := budgetOf v })))

/-- A sample joins the list (R1). -/
def listSample (raw : Nat) (s : State) : State :=
  let l := pushSample s.supply.samples raw
  let s := s.withSupply { s.supply with samples := l }
  match filtered l with
  | some v => applyVf v s
  | none => s

/-- The instant of the next sample: 5 ms, in PARK 100 ms (R1, R201). -/
def State.nextSample (s : State) : Time := s.now + (if s.sys.mode = .park then msec 100 else msec 5)

/-- VBAT_SAMPLE (R1, R3): the brown-out comparator first, then the filter. -/
def execVbatSample (raw : Nat) (s : State) : Out :=
  let v := min raw 32767
  let s := reach s.supply.sampleDue s
  if s.sys.inReset then
    .next (if 6500 < v then resetPart .brownOut s else s.withSupply { s.supply with sampleDue := s.now + msec 5 })
  else if v < 6000 then .next (brownOutHold s)
  else .next (refreshPark (listSample v (s.withSupply { s.supply with sampleDue := s.nextSample })))

/-! ### The vehicle context record (R6 to R9) -/

/-- The effects of a change of the ignition field (R8, R9). -/
def ignitionChanged (before after : Ignition) (s : State) : State :=
  if before = .off ∧ after ≠ .off then
    ignitionRelease (s.withCtx { s.ctx with retainedDue := none, staleDue := some (s.now + sec 2) })
  else if before ≠ .off ∧ after = .off then
    s.withCtx { s.ctx with
      staleDue := none
      retainedDue := if s.cfg.retainedTime = 0 then none else some (s.now + s.cfg.retainedTime) }
  else s

/-- A SET_CONTEXT carried out (R6). One on another port leaves a staleness timer that has expired stopped until the next body
frame (R7; log 41). -/
def writeContext (i : Ignition) (v : Speed) (s : State) : State :=
  ignitionChanged s.ctx.ignition i (s.withCtx { s.ctx with ignition := i, speed := v, fresh := true })

/-- SET_CONTEXT as the context unit takes it (R6). -/
def setContextOwner : Owner := fun _ payload s =>
  match payload with
  | [i, v] =>
    match ignitionOf i, speedOf v with
    | some i, some v => (writeContext i v s, Reply.of .ok)
    | _, _ => refuse .badArgument s
  | _ => refuse .badArgument s

/-- SET_CONTEXT (R6). -/
def execSetContext (dt : Time) (p : Port) (payload : List Byte) (s : State) : Out :=
  onRequest dt p 0x10 payload setContextOwner s

/-- The staleness timer reaches its limit and stops until it is started anew (R7; log 41). -/
def becomeStale (s : State) : State :=
  let fresh := s.ctx.fresh
  let s := s.withCtx { s.ctx with staleDue := none, fresh := false }
  if fresh then offer .contextStale s else s

/-- STALENESS_TIMER_EXPIRY (R7). -/
def execStalenessTimerExpiry (s : State) : Out := onTimer s.ctx.staleDue becomeStale s

/-- RETAINED_POWER_EXPIRY (R9). -/
def execRetainedPowerExpiry (s : State) : Out :=
  onTimer s.ctx.retainedDue (fun s => s.withCtx { s.ctx with retainedDue := none }) s

end Sys2Proof.Machine
end

