-- ==== Sys2Proof/Machine/Frames.lean ====
section
/-! DEFINITION. The request table (section 10.5) and the commands that carry a frame as clocked: FRAME_ERROR,
FRAME_IN_STARTING and UNKNOWN_REQUEST (log 8). -/

namespace Sys2Proof.Machine

/-- The owner of a request code (section 10.5). -/
def ownerOf (code : Byte) : Option Owner :=
  match code.toNat with
  | 0x00 => some nopOwner
  | 0x01 => some readStatusOwner
  | 0x02 => some clearEventsOwner
  | 0x03 => some setEventEnableOwner
  | 0x10 => some setContextOwner
  | 0x20 => some lockRequestOwner
  | 0x21 => some childLockOwner
  | 0x22 => some rearInhibitOwner
  | 0x23 => some tailgateOwner
  | 0x30 => some windowRequestOwner
  | 0x31 => some normalizeOwner
  | 0x40 => some telegramOwner
  | 0x41 => some readSearchOwner
  | 0x42 => some searchResultOwner
  | 0x50 => some enrolOwner
  | 0x51 => some (slotOwner removeSlot)
  | 0x52 => some (slotOwner suspendSlot)
  | 0x53 => some (slotOwner reinstateSlot)
  | 0x54 => some setFobModeOwner
  | 0x60 => some crashNoticeOwner
  | 0x70 => some stageOwner
  | 0x71 => some commitOwner
  | 0x72 => some crashClearOwner
  | 0x73 => some restartOwner
  | _ => none

/-- A pulse of CS judged from what SCK clocked (R184 to R186). -/
def takePulse (p : Port) (sck : Option (List Bool)) (s : State) : State :=
  match judgePulse sck with
  | .noFrame => s
  | .error => takeError p s
  | .good code payload => takeFrame (ownerOf code) p code payload s

/-- FRAME_ERROR (R186). -/
def execFrameError (dt : Time) (p : Port) (sck : Option (List Bool)) (s : State) : Out :=
  onPulse dt p (takePulse p sck) s

/-- FRAME_IN_STARTING (R187). -/
def execFrameInStarting (dt : Time) (p : Port) (sck : Option (List Bool)) (s : State) : Out :=
  onPulse dt p (takePulse p sck) s

/-- UNKNOWN_REQUEST (R188). -/
def execUnknownRequest (dt : Time) (p : Port) (code : Byte) (payload : List Byte) (s : State) : Out :=
  onPulse dt p (if payload.length ≤ 14 then takeFrame (ownerOf code) p code payload else takeError p) s

end Sys2Proof.Machine
end

