-- ==== Sys2Proof/Machine/Dispatch.lean ====
section
/-! DEFINITION. The dispatch of a command to its meaning, one arm per row of spec/opcode_table.json. -/

namespace Sys2Proof.Machine

/-- The effect of a command on everything but the queue. -/
def exec (i : Instr) (s : State) : Host.Outcome State Fault Refusal :=
  match i with
  | .powerOnReset pins => Sys2Proof.Machine.execPowerOnReset pins s
  | .vbatSample raw => Sys2Proof.Machine.execVbatSample raw s
  | .setContext dt p payload => Sys2Proof.Machine.execSetContext dt p payload s
  | .stalenessTimerExpiry => Sys2Proof.Machine.execStalenessTimerExpiry s
  | .retainedPowerExpiry => Sys2Proof.Machine.execRetainedPowerExpiry s
  | .stageOvercurrent dt a => Sys2Proof.Machine.execStageOvercurrent dt a s
  | .stageStall dt a openLoad => Sys2Proof.Machine.execStageStall dt a openLoad s
  | .lockBrakeHoldEnd l => Sys2Proof.Machine.execLockBrakeHoldEnd l s
  | .ajarChange dt l v => Sys2Proof.Machine.execAjarChange dt l v s
  | .latchposChange dt l v => Sys2Proof.Machine.execLatchposChange dt l v s
  | .lockDriveTimeExpiry l openLoad => Sys2Proof.Machine.execLockDriveTimeExpiry l openLoad s
  | .lockSettleEnd l => Sys2Proof.Machine.execLockSettleEnd l s
  | .heatCoolingExpiry l => Sys2Proof.Machine.execHeatCoolingExpiry l s
  | .lockRequest dt p payload => Sys2Proof.Machine.execLockRequest dt p payload s
  | .centralButtonPress dt pressed => Sys2Proof.Machine.execCentralButtonPress dt pressed s
  | .keyCylinderTurn dt k active => Sys2Proof.Machine.execKeyCylinderTurn dt k active s
  | .keyPressTimerExpiry => Sys2Proof.Machine.execKeyPressTimerExpiry s
  | .fobPressTimerExpiry => Sys2Proof.Machine.execFobPressTimerExpiry s
  | .autoRelockExpiry => Sys2Proof.Machine.execAutoRelockExpiry s
  | .tailgateRelease dt p payload => Sys2Proof.Machine.execTailgateRelease dt p payload s
  | .releasePulseEnd openLoad => Sys2Proof.Machine.execReleasePulseEnd openLoad s
  | .releaseWatchExpiry => Sys2Proof.Machine.execReleaseWatchExpiry s
  | .chposChange dt c v => Sys2Proof.Machine.execChposChange dt c v s
  | .childDriveTimeExpiry c openLoad => Sys2Proof.Machine.execChildDriveTimeExpiry c openLoad s
  | .childSettleEnd c => Sys2Proof.Machine.execChildSettleEnd c s
  | .childLock dt p payload => Sys2Proof.Machine.execChildLock dt p payload s
  | .childButtonPress dt pressed => Sys2Proof.Machine.execChildButtonPress dt pressed s
  | .windowLockButtonPress dt pressed => Sys2Proof.Machine.execWindowLockButtonPress dt pressed s
  | .rearInhibit dt p payload => Sys2Proof.Machine.execRearInhibit dt p payload s
  | .hallEdge dt w sense => Sys2Proof.Machine.execHallEdge dt w sense s
  | .noPulseTest w aboveStall => Sys2Proof.Machine.execNoPulseTest w aboveStall s
  | .switchChannelChange dt c reading => Sys2Proof.Machine.execSwitchChannelChange dt c reading s
  | .windowStall w => Sys2Proof.Machine.execWindowStall w s
  | .runTimeout w => Sys2Proof.Machine.execRunTimeout w s
  | .windowBrakeEnd w => Sys2Proof.Machine.execWindowBrakeEnd w s
  | .windowRequest dt p payload => Sys2Proof.Machine.execWindowRequest dt p payload s
  | .normalizeWindow dt p payload => Sys2Proof.Machine.execNormalizeWindow dt p payload s
  | .accessTelegram dt p payload => Sys2Proof.Machine.execAccessTelegram dt p payload s
  | .gapTimerExpiry => Sys2Proof.Machine.execGapTimerExpiry s
  | .passiveTrigger dt t touched => Sys2Proof.Machine.execPassiveTrigger dt t touched s
  | .tgButtonPress dt pressed => Sys2Proof.Machine.execTgButtonPress dt pressed s
  | .readSearch dt p payload => Sys2Proof.Machine.execReadSearch dt p payload s
  | .searchResult dt p payload => Sys2Proof.Machine.execSearchResult dt p payload s
  | .searchTimeout => Sys2Proof.Machine.execSearchTimeout s
  | .enrolFob dt p payload => Sys2Proof.Machine.execEnrolFob dt p payload s
  | .removeFob dt p payload => Sys2Proof.Machine.execRemoveFob dt p payload s
  | .suspendFob dt p payload => Sys2Proof.Machine.execSuspendFob dt p payload s
  | .reinstateFob dt p payload => Sys2Proof.Machine.execReinstateFob dt p payload s
  | .setFobMode dt p payload => Sys2Proof.Machine.execSetFobMode dt p payload s
  | .crashLineLowMeasured dt => Sys2Proof.Machine.execCrashLineLowMeasured dt s
  | .crashLineLowEnd dt => Sys2Proof.Machine.execCrashLineLowEnd dt s
  | .crashLineFault => Sys2Proof.Machine.execCrashLineFault s
  | .crashGapTimeout => Sys2Proof.Machine.execCrashGapTimeout s
  | .crashLineRecovery dt => Sys2Proof.Machine.execCrashLineRecovery dt s
  | .crashNotice dt p payload => Sys2Proof.Machine.execCrashNotice dt p payload s
  | .crashClear dt p payload => Sys2Proof.Machine.execCrashClear dt p payload s
  | .patternPhaseEnd => Sys2Proof.Machine.execPatternPhaseEnd s
  | .rowProgramStart => Sys2Proof.Machine.execRowProgramStart s
  | .rowProgramEnd readback => Sys2Proof.Machine.execRowProgramEnd readback s
  | .startupScanEnd => Sys2Proof.Machine.execStartupScanEnd s
  | .stageConfig dt p payload => Sys2Proof.Machine.execStageConfig dt p payload s
  | .commitConfig dt p payload => Sys2Proof.Machine.execCommitConfig dt p payload s
  | .chipSelectFall dt p => Sys2Proof.Machine.execChipSelectFall dt p s
  | .frameError dt p sck => Sys2Proof.Machine.execFrameError dt p sck s
  | .frameInStarting dt p sck => Sys2Proof.Machine.execFrameInStarting dt p sck s
  | .unknownRequest dt p code payload => Sys2Proof.Machine.execUnknownRequest dt p code payload s
  | .nop dt p payload => Sys2Proof.Machine.execNop dt p payload s
  | .readStatus dt p payload => Sys2Proof.Machine.execReadStatus dt p payload s
  | .clearEvents dt p payload => Sys2Proof.Machine.execClearEvents dt p payload s
  | .setEventEnable dt p payload => Sys2Proof.Machine.execSetEventEnable dt p payload s
  | .restart dt p payload => Sys2Proof.Machine.execRestart dt p payload s
  | .restartReset => Sys2Proof.Machine.execRestartReset s
  | .eventDelayExpiry p => Sys2Proof.Machine.execEventDelayExpiry p s
  | .startingEnd => Sys2Proof.Machine.execStartingEnd s
  | .parkIdleExpiry => Sys2Proof.Machine.execParkIdleExpiry s
  | .crashLineGlitchEnd dt => Sys2Proof.Machine.execCrashLineGlitchEnd dt s

end Sys2Proof.Machine
end

