-- ==== Sys2Proof/Safety.lean ====
section
/-! DEFINITION. The conditions and the invariants that the statements speak of. -/

namespace Sys2Proof.Machine

/-! ### Conditions of a step -/

/-- The part is awake in RUN: no brown-out reset in force. -/
abbrev Awake (s : State) : Prop := s.sys.inReset = false ∧ s.sys.mode = .run

/-- A frame is being received on a port in RUN (R184). -/
abbrev Receiving (s : State) (p : Port) : Prop := Awake s ∧ (s.ports.get p).receiving = true

/-- A request of a group reaches its owner: the port is permitted the group, and no restart is pending unless the request is
of group G0 (R188, R189, R195). -/
abbrev Admitted (s : State) (p : Port) (group : Nat) : Prop :=
  s.permitted p group = true ∧ (group = 0 ∨ s.sys.restartPending = false)

/-- The state in which the owner takes a request: `dt` later, with the receiver IDLE again, and the staleness timer restarted
by a body port frame (R7, R184). -/
def atOwner (dt : Time) (p : Port) (s : State) : State :=
  let s := csRise p (advance dt s)
  if p = .body then restartStaleness s else s

/-- The state after a request was answered: response slot replaced, park conditions evaluated (R190, R200). -/
def answered (p : Port) (code : Byte) (r : Reply) (s : State) : State := refreshPark (setSlot p code r s)

/-- The input changes of the inputs that are watched in RUN: the command as a function of the time since the step before, the
wake mask bit of the input if it has one (section 9.6), and the pins after it. -/
inductive InputChange (s : State) : (Time → Instr) → Option Nat → Pins → Prop
  | ajar (l : Latch) (v : Ajar) :
      InputChange s (.ajarChange · l v) none { s.pins with ajar := s.pins.ajar.set l v }
  | latchpos (l : Latch) (v : LockPos) :
      InputChange s (.latchposChange · l v) none { s.pins with latchpos := s.pins.latchpos.set l v }
  | chpos (c : Side) (v : ChildPos) :
      InputChange s (.chposChange · c v) none { s.pins with chpos := s.pins.chpos.set c v }
  | ladder (c : Chan) (x : Ladder) :
      InputChange s (.switchChannelChange · c x) none { s.pins with ladders := s.pins.ladders.set c x }
  | touch (x : Touch) (v : Bool) : InputChange s (.passiveTrigger · x v) (some (touchBit x)) s.pins
  | tgButton (v : Bool) : InputChange s (.tgButtonPress · v) (some 4) s.pins
  | central (v : Bool) : InputChange s (.centralButtonPress · v) (some 5) s.pins
  | keyLock (v : Bool) : InputChange s (.keyCylinderTurn · .lock v) (some 5) { s.pins with keyLock := v }
  | keyUnlock (v : Bool) : InputChange s (.keyCylinderTurn · .unlock v) (some 5) { s.pins with keyUnlock := v }
  | child (v : Bool) : InputChange s (.childButtonPress · v) (some 6) s.pins
  | windowLock (v : Bool) : InputChange s (.windowLockButtonPress · v) (some 7) s.pins

/-- The request commands with their codes (section 10.5): the frame of `code` and `payload` on port `p`, `dt` after the step
before. -/
inductive RequestOf (dt : Time) (p : Port) (payload : List Byte) : Byte → Instr → Prop
  | nop : RequestOf dt p payload 0x00 (.nop dt p payload)
  | readStatus : RequestOf dt p payload 0x01 (.readStatus dt p payload)
  | clearEvents : RequestOf dt p payload 0x02 (.clearEvents dt p payload)
  | setEventEnable : RequestOf dt p payload 0x03 (.setEventEnable dt p payload)
  | setContext : RequestOf dt p payload 0x10 (.setContext dt p payload)
  | lockRequest : RequestOf dt p payload 0x20 (.lockRequest dt p payload)
  | childLock : RequestOf dt p payload 0x21 (.childLock dt p payload)
  | rearInhibit : RequestOf dt p payload 0x22 (.rearInhibit dt p payload)
  | tailgateRelease : RequestOf dt p payload 0x23 (.tailgateRelease dt p payload)
  | windowRequest : RequestOf dt p payload 0x30 (.windowRequest dt p payload)
  | normalizeWindow : RequestOf dt p payload 0x31 (.normalizeWindow dt p payload)
  | accessTelegram : RequestOf dt p payload 0x40 (.accessTelegram dt p payload)
  | readSearch : RequestOf dt p payload 0x41 (.readSearch dt p payload)
  | searchResult : RequestOf dt p payload 0x42 (.searchResult dt p payload)
  | enrolFob : RequestOf dt p payload 0x50 (.enrolFob dt p payload)
  | removeFob : RequestOf dt p payload 0x51 (.removeFob dt p payload)
  | suspendFob : RequestOf dt p payload 0x52 (.suspendFob dt p payload)
  | reinstateFob : RequestOf dt p payload 0x53 (.reinstateFob dt p payload)
  | setFobMode : RequestOf dt p payload 0x54 (.setFobMode dt p payload)
  | crashNotice : RequestOf dt p payload 0x60 (.crashNotice dt p payload)
  | stageConfig : RequestOf dt p payload 0x70 (.stageConfig dt p payload)
  | commitConfig : RequestOf dt p payload 0x71 (.commitConfig dt p payload)
  | crashClear : RequestOf dt p payload 0x72 (.crashClear dt p payload)
  | restart : RequestOf dt p payload 0x73 (.restart dt p payload)

/-! ### Invariants -/

/-- Bits 28 to 31 of an event word hold 0 (R196). -/
abbrev wordUsed (w : Word32) : Prop := w &&& usedBits = w

def EventRec.Used (r : EventRec) : Prop := wordUsed r.captured ∧ wordUsed r.mask

/-- The event words of every port hold 0 in bits 28 to 31 (R196). -/
def EventsUsed (s : State) : Prop := ∀ p : Port, (s.events.get p).Used

/-- The supply record keeps its ranges: at most eight samples, B at most 20 (R1, R4). -/
abbrev SupplyInRange (s : State) : Prop := s.supply.samples.length ≤ 8 ∧ s.supply.budget ≤ 20

/-- The playback queue holds at most four entries (R164). -/
abbrev FeedbackBounded (s : State) : Prop := s.feedback.queue.length ≤ 4

/-- The store queue holds no row twice (R170). -/
abbrev StoreQueueOnce (s : State) : Prop := s.store.queue.Nodup

/-- No two slots in state ACTIVE or SUSPENDED hold the same identifier (R114). -/
def FobsDistinct (t : Slots Fob) : Prop :=
  ∀ j k : SlotId, (t.get j).enrolled = true → (t.get k).enrolled = true → (t.get j).ident = (t.get k).ident → j = k

/-- The ceiling exceeds the last accepted counter by 1 to 32, modulo 2^32 (R120). -/
def CeilingAhead (t : Slots Fob) : Prop :=
  ∀ k : SlotId, (t.get k).enrolled = true →
    1 ≤ ((t.get k).ceiling - (t.get k).counter).toNat ∧ ((t.get k).ceiling - (t.get k).counter).toNat ≤ 32

/-- Heat lies within 0..20 on every latch (R33). -/
def HeatInRange (s : State) : Prop := ∀ l : Latch, (s.latches.get l).heat ≤ 20

/-- Whenever a window drive is running, the sum of the costs of running window drives does not exceed B − 4 (R20). -/
abbrev WindowBudget (s : State) : Prop := s.windowUnits = 0 ∨ s.windowUnits + 4 ≤ s.supply.budget

end Sys2Proof.Machine
end

