-- ==== Sys2Proof/Certificates/Slice0/Obligations.lean ====
section
/-! DEFINITION. The statements for the provers. A next state is written with the model's own operations; what they leave
unnamed is unchanged, so each such equation is the command's frame as well. -/

open Sys2Proof Sys2Proof.Machine

/-! ### Steps and resets -/

/-- A step runs the command at the front of the queue on the state with the queue's rest. -/
def Obligations.StepRunsFront : Prop :=
  ∀ (c : Instr) (rest : List Instr) (s : State), s.pending = c :: rest → step s = exec c (s.withPending rest)

/-- An empty queue leaves the part idle (the model's choice, log 1); the expiry of a stopped timer, or the end of what
is not under way, changes nothing (log 3). -/
def Obligations.NothingDue : Prop :=
  (∀ s : State, s.pending = [] → step s = .next s)
    ∧ (∀ s : State, s.ctx.staleDue = none → exec .stalenessTimerExpiry s = .next s)
    ∧ (∀ s : State, s.ctx.retainedDue = none → exec .retainedPowerExpiry s = .next s)
    ∧ (∀ (l : Latch) (s : State), (s.latches.get l).brakeDue = none → exec (.lockBrakeHoldEnd l) s = .next s)
    ∧ (∀ (l : Latch) (o : Bool) (s : State), (s.latches.get l).driveDue = none →
        exec (.lockDriveTimeExpiry l o) s = .next s)
    ∧ (∀ (l : Latch) (s : State), (s.latches.get l).settleDue = none → exec (.lockSettleEnd l) s = .next s)
    ∧ (∀ (l : Latch) (s : State), (s.latches.get l).coolDue = none → exec (.heatCoolingExpiry l) s = .next s)
    ∧ (∀ s : State, s.presses.key = none → exec .keyPressTimerExpiry s = .next s)
    ∧ (∀ s : State, s.presses.fob = none → exec .fobPressTimerExpiry s = .next s)
    ∧ (∀ s : State, s.presses.relockDue = none → exec .autoRelockExpiry s = .next s)
    ∧ (∀ (o : Bool) (s : State), s.release.pulseDue = none → exec (.releasePulseEnd o) s = .next s)
    ∧ (∀ s : State, s.release.watchDue = none → exec .releaseWatchExpiry s = .next s)
    ∧ (∀ (c : Side) (o : Bool) (s : State), (s.child.recs.get c).driveDue = none →
        exec (.childDriveTimeExpiry c o) s = .next s)
    ∧ (∀ (c : Side) (s : State), (s.child.recs.get c).settleDue = none → exec (.childSettleEnd c) s = .next s)
    ∧ (∀ (w : Win) (b : Bool) (s : State), (s.windows.get w).noPulseArmed = false → exec (.noPulseTest w b) s = .next s)
    ∧ (∀ (w : Win) (s : State), (s.windows.get w).edges = 0 → exec (.windowStall w) s = .next s)
    ∧ (∀ (w : Win) (s : State), (∀ d, s.stages.get (.window w) ≠ .drive d) → exec (.windowStall w) s = .next s)
    ∧ (∀ (w : Win) (s : State), (s.windows.get w).runDue = none → exec (.runTimeout w) s = .next s)
    ∧ (∀ (w : Win) (s : State), (s.windows.get w).brakeDue = none → exec (.windowBrakeEnd w) s = .next s)
    ∧ (∀ s : State, s.tracker.held = none → exec .gapTimerExpiry s = .next s)
    ∧ (∀ s : State, s.search.due = none → exec .searchTimeout s = .next s)
    ∧ (∀ s : State, s.crash.line ≠ .low → exec .crashLineFault s = .next s)
    ∧ (∀ s : State, (s.crash.line ≠ .idle ∨ s.crash.count = 0) → exec .crashGapTimeout s = .next s)
    ∧ (∀ s : State, s.feedback.playing = none → exec .patternPhaseEnd s = .next s)
    ∧ (∀ (x : Option PhysRow) (s : State), s.store.program = none → exec (.rowProgramEnd x) s = .next s)
    ∧ (∀ s : State, s.sys.scanDue = none → exec .startupScanEnd s = .next s)
    ∧ (∀ s : State, s.sys.startDue = none → exec .startingEnd s = .next s)
    ∧ (∀ s : State, (∀ d, s.sys.park ≠ .running d) → exec .parkIdleExpiry s = .next s)
    ∧ (∀ (p : Port) (s : State), (s.events.get p).delayDue = none → exec (.eventDelayExpiry p) s = .next s)

/-- Resets. What the spec gives for the records after a reset, at the model's reset state. POWER_ON_RESET and RESTART_RESET:
every record at its reset value, STARTING of 30 ms with a scan of 20 ms; the array is kept, but a power-on reset leaves the
row of an interrupted program unreadable (the model's choice, log 4: the spec says so of brown-out alone), and a restart
waits for the store. The brown-out comparator: below 6.00 V the part is held in reset with every stage OFF, its records lost
and the row of an interrupted program unreadable; it stays so until a sample lies above 6.50 V, which releases it into
STARTING; another sample is listed, the next one due after 5 ms, or 100 ms in PARK. -/
def Obligations.ResetsStart : Prop :=
  (State.reset.sys.mode = .starting ∧ State.reset.sys.restartPending = false
    ∧ State.reset.supply.samples = [] ∧ State.reset.supply.vf = none ∧ State.reset.supply.band = .normal
    ∧ State.reset.supply.budget = 0
    ∧ State.reset.ctx = { ignition := .off, speed := .standstill, fresh := true, staleDue := none, retainedDue := none }
    ∧ State.reset.arb = { queue := [], running := [], holds := [], seq := 0 }
    ∧ (∀ a : Actuator, State.reset.stages.get a = .off)
    ∧ State.reset.groups.entries = [] ∧ State.reset.presses = { key := none, fob := none, relockDue := none }
    ∧ (∀ l : Latch, (State.reset.latches.get l).heat = 0 ∧ (State.reset.latches.get l).hot = false
        ∧ (State.reset.latches.get l).fault = .none)
    ∧ State.reset.search.state = .none ∧ State.reset.tracker.held = none
    ∧ State.reset.feedback = { queue := [], playing := none }
    ∧ State.reset.store.queue = [] ∧ State.reset.store.program = none ∧ State.reset.store.staging = none
    ∧ (∀ p : Port, (State.reset.ports.get p).slot = { echo := 0, result := .noPrevious, payload := [] })
    ∧ (∀ p : Port, (State.reset.events.get p).captured = 0 ∧ (State.reset.events.get p).delayDue = none)
    ∧ (State.reset.events.get .body).mask = 0x0FFFFFFF#32 ∧ (State.reset.events.get .radio).mask = 0x081FC00F#32
    ∧ (State.reset.events.get .restraint).mask = 0x08180001#32)
    ∧ ((∀ (pins : Pins) (s : State), ∃ t, exec (.powerOnReset pins) s = .next t
      ∧ t = State.afterReset .powerOn s.now s.pending pins s.store.arrayAfterReset
      ∧ t.sys.mode = .starting ∧ t.sys.cause = .powerOn ∧ t.sys.scanDue = some (s.now + msec 20)
      ∧ t.sys.startDue = some (s.now + msec 30) ∧ (s.store.program = none → t.store.array = s.store.array))
    ∧ (∀ s : State, s.sys.restartPending = true → s.store.queue = [] → s.store.program = none →
        exec .restartReset s = .next (State.afterReset .restart s.now s.pending s.pins s.store.array))
    ∧ (∀ s : State, (s.sys.restartPending = false ∨ s.store.queue ≠ [] ∨ s.store.program ≠ none) →
        exec .restartReset s = .next s))
    ∧ ((∀ (raw : Nat) (s : State), s.sys.inReset = false → raw < 6000 → ∃ t, exec (.vbatSample raw) s = .next t
      ∧ t.sys.inReset = true ∧ (∀ a : Actuator, t.stages.get a = .off) ∧ t.arb.running = [] ∧ t.arb.queue = []
      ∧ t = (State.afterReset .brownOut (max s.now s.supply.sampleDue) s.pending s.pins s.store.arrayAfterReset).withSys t.sys
      ∧ t.supply.sampleDue = t.now + msec 5
      ∧ (∀ g, s.store.program = some g → t.store.array[g.target] = .unreadable))
    ∧ (∀ (raw : Nat) (s : State), s.sys.inReset = true → raw ≤ 6500 →
        exec (.vbatSample raw) s = .next ((s.withNow (max s.now s.supply.sampleDue)).withSupply
          { s.supply with sampleDue := max s.now s.supply.sampleDue + msec 5 }))
    ∧ (∀ (raw : Nat) (s : State), s.sys.inReset = true → 6500 < raw → ∃ t, exec (.vbatSample raw) s = .next t
        ∧ t.sys.mode = .starting ∧ t.sys.cause = .brownOut ∧ t.sys.inReset = false)
    ∧ (∀ (raw : Nat) (s : State), s.sys.inReset = false → 6000 ≤ raw →
        exec (.vbatSample raw) s = .next (refreshPark (listSample (min raw 32767)
          ((s.withNow (max s.now s.supply.sampleDue)).withSupply { s.supply with
            sampleDue := max s.now s.supply.sampleDue + (if s.sys.mode = .park then msec 100 else msec 5) })))))

/-- The end of the scan: per logical row the claims are taken in ascending order of physical row, a newer one
replacing the one held; the winner is loaded, losers and unused homes are RETIRED, a row without a claim is lost and
takes its default at its home row or a spare (in the order of log 44), no two the same; every other spare that claims
nothing is FREE; RECORD_LOST is captured exactly when a row is lost; the configuration image is the stored or the
factory image, limited. The end of STARTING: every record derived from the first readings and the shadows, RUN entered
after the unlock of a latched crash and a crash held, POWER_ON captured, playback begun. The first readings are the
levels of the pins at that moment, which follow an input that has not settled too (the model's form of R199's step 1,
log 18). -/
def Obligations.StartingEnds : Prop :=
  (∀ (d : Time) (s : State), s.sys.scanDue = some d →
      exec .startupScanEnd s = .next (refreshPark (endScan (reach d s))))
    ∧ (∀ (d : Time) (s : State), s.sys.startDue = some d →
        exec .startingEnd s = .next (refreshPark (startPlayback (offer .powerOn
          (let v := if s.sys.scanDue = none then reach d s else endScan (reach d s)
           let u := startCrash (deriveRecords (v.withSys { v.sys with startDue := none }))
           u.withSys { u.sys with mode := .run })))))
    -- claims
    ∧ (∀ a b : Byte, newer a b = true ↔ 1 ≤ (a - b).toNat ∧ (a - b).toNat ≤ 127)
    ∧ (∀ (array : Vector PhysRow 48) (c : Claim),
        c ∈ claimsOf array ↔ array[c.phys].claim = some (c.row, c.generation, c.payload))
    ∧ (∀ array : Vector PhysRow 48, (claimsOf array).Pairwise fun a b => a.phys < b.phys)
    ∧ (∀ l : LRow, winningClaim [] l = none)
    ∧ (∀ (cs : List Claim) (c : Claim) (l : LRow), winningClaim (cs ++ [c]) l =
        if c.row = l then
          (match winningClaim cs l with
           | none => some c
           | some h => if newer c.generation h.generation then some c else some h)
        else winningClaim cs l)
    -- what the scan leaves
    ∧ (∀ s : State, s.sys.mode = .starting →
        let t := endScan s
        let cs := claimsOf s.store.array
        t.sys.scanDue = none ∧ t.store.array = s.store.array ∧ t.store.queue = s.store.queue
          ∧ (∀ l : LRow, l ∈ t.store.lost ↔ winningClaim cs l = none)
          ∧ (t.store.lost = [] → t.events = s.events)
          ∧ (t.store.lost ≠ [] → ∀ p : Port, (t.events.get p).captured =
              (s.events.get p).captured ||| (Ev.recordLost.bit &&& (s.events.get p).mask))
          ∧ (∀ (l : LRow) (c : Claim), winningClaim cs l = some c →
              t.store.shadows[l].current = c.phys ∧ t.store.shadows[l].generation = c.generation
                ∧ t.store.shadows[l].isVolatile = false ∧ t.store.map[c.phys] = .inUse
                ∧ (4 ≤ l.val → t.store.shadows[l].content = c.payload)
                ∧ ((∀ x ∈ cs, x.phys ≠ homeRow l) → t.store.map[homeRow l] = .retired))
          ∧ (∀ c ∈ cs, winningClaim cs c.row ≠ some c → t.store.map[c.phys] = .retired)
          ∧ (∀ l : LRow, winningClaim cs l = none →
              t.store.shadows[l].generation = 0
                ∧ (4 ≤ l.val → t.store.shadows[l].content =
                    padBytes 13 (if 5 ≤ l.val ∧ l.val ≤ 10 then [0, 0, 0, 0, 0, 0, 0, 0, 0xFF] else []))
                ∧ ((∀ x ∈ cs, x.phys ≠ homeRow l) → t.store.shadows[l].current = homeRow l
                    ∧ t.store.shadows[l].isVolatile = false ∧ t.store.map[homeRow l] = .inUse)
                ∧ ((∃ x ∈ cs, x.phys = homeRow l) → t.store.shadows[l].isVolatile = false →
                    ∃ q : PRow, t.store.shadows[l].current = q ∧ 35 ≤ q.val ∧ (∀ x ∈ cs, x.phys ≠ q)
                      ∧ t.store.map[q] = .inUse ∧ ∀ r : PRow, r < q → t.store.map[r] ≠ .free)
                ∧ (t.store.shadows[l].isVolatile = true → ∀ r : PRow, t.store.map[r] ≠ .free))
          ∧ (∀ l m : LRow, l ≠ m → winningClaim cs l = none → winningClaim cs m = none →
              t.store.shadows[l].isVolatile = false → t.store.shadows[m].isVolatile = false →
              t.store.shadows[l].current ≠ t.store.shadows[m].current)
          ∧ (∀ r : PRow, 35 ≤ r.val → (∀ x ∈ cs, x.phys ≠ r) →
              (∀ l : LRow, winningClaim cs l = none → t.store.shadows[l].current ≠ r) → t.store.map[r] = .free)
          ∧ ((∃ l : LRow, l.val ≤ 3 ∧ winningClaim cs l = none) → t.cfg = factoryImage)
          ∧ (∀ c0 c1 c2 c3 : Claim, winningClaim cs 0 = some c0 → winningClaim cs 1 = some c1 →
              winningClaim cs 2 = some c2 → winningClaim cs 3 = some c3 →
              t.cfg = Image.limited (padBytes 52
                (c0.payload.toList ++ c1.payload.toList ++ c2.payload.toList ++ c3.payload.toList))))
    -- what the derivation gives
    ∧ (∀ c : Content,
        let b (n : Nat) : Byte := c.toList.getD n 0
        let k := word32 (b 4) (b 5) (b 6) (b 7)
        (b 8 = 0 → slotFromRow c = Fob.reset)
          ∧ (b 8 = 1 ∨ b 8 = 2 → slotFromRow c =
              { state := if b 8 = 1 then .active else .suspended, ident := word32 (b 0) (b 1) (b 2) (b 3), counter := k
                ceiling := k + 32, resync := none, mode := if b 9 = 1 then .global else .selective
                comfort := b 10 == 1, failures := 0, verdict := .none, press := none })
          ∧ (b 8 ≠ 0 → b 8 ≠ 1 → b 8 ≠ 2 → slotFromRow c = { Fob.reset with state := .invalid }))
    ∧ (∀ s : State, s.sys.mode = .starting →
        let t := deriveRecords s
        t.sys = { s.sys with dside := s.pins.dside }
          ∧ (∀ l : Latch,
              let dead : Bool := (deadBit l).any fun n => s.deadlockBits.getLsbD n
              t.latches.get l = { LatchRec.reset with
                  position := s.pins.latchpos.get l, ajar := s.pins.ajar.get l
                  state := match s.pins.latchpos.get l with
                    | .unlocked => .unlocked
                    | .locked => if dead then .deadlocked else .locked }
                ∧ ∀ n, deadBit l = some n →
                    t.deadlockBits.getLsbD n = (dead && s.pins.latchpos.get l == .locked))
          ∧ (∀ c : Side,
              t.child.recs.get c = { ChildRec.reset with state := s.pins.chpos.get c, position := s.pins.chpos.get c }
                ∧ t.childCopies.getLsbD (childBit c) = (s.pins.chpos.get c == .engaged)
                ∧ t.child.effective.get c =
                    (t.child.rearInhibit || (s.cfg.childLink && s.pins.chpos.get c == .engaged)))
          ∧ t.child.rearInhibit = ((s.row stateRow)[2] == 1)
          ∧ (∀ w : Win,
              let b (r n : Nat) : Byte := (s.row (w.row r)).toList.getD n 0
              let x := nat16 (b 0 0) (b 0 1)
              let pm : Option Nat := if 600 ≤ x ∧ x ≤ 2047 then some x else none
              let lost := ∃ r, r < 6 ∧ w.row r ∈ s.store.lost
              (lost → t.windows.get w =
                    { WindowRec.reset with pmax := if w.row 0 ∈ s.store.lost then none else pm, norm := .unlearned }
                  ∧ ∀ z : Fin 32, (t.profiles.get w)[z] = 0)
                ∧ (¬ lost → t.windows.get w =
                    { WindowRec.reset with
                      pmax := pm, norm := if pm.isSome = true ∧ b 0 2 = 1 then .positionLost else .unlearned }
                  ∧ ∀ r n, r < 6 → n < (refSpan r).2 →
                      let e := nat16 (b r ((if r = 0 then 3 else 0) + 2 * n)) (b r ((if r = 0 then 3 else 0) + 2 * n + 1))
                      (t.profiles.get w)[Fin.ofNat 32 ((refSpan r).1 + n)] = if 200 ≤ e ∧ e ≤ 20000 then e else 0))
          ∧ (∀ c : Chan, t.chans.get c = { position := decodeLadder (s.pins.ladders.get c)
                                           waiting := decodeLadder (s.pins.ladders.get c) != .neutral })
          ∧ (∀ k : SlotId,
              let f := slotFromRow (s.row k.row)
              let taken := ∃ j : SlotId, j.index < k.index ∧ (t.fobs.get j).enrolled = true
                ∧ (t.fobs.get j).ident = f.ident
              (f.enrolled = true → taken → t.fobs.get k = { Fob.reset with state := .invalid })
                ∧ (f.enrolled = false ∨ ¬ taken → t.fobs.get k = f)
                ∧ ((t.fobs.get k).enrolled = true → t.row k.row = fobRow (t.fobs.get k)
                    ∧ (s.store.shadows[k.row].isVolatile = false → k.row ∈ t.store.queue)))
          ∧ t.crash = { s.crash with
              latched := (s.row stateRow)[0] == 1
              severity := if (s.row stateRow)[1].toNat ≤ 3 then (s.row stateRow)[1].toNat else 0 }
          ∧ t.arb = s.arb ∧ t.stages = s.stages ∧ t.events = s.events)
    -- the crash of a reset
    ∧ (∀ s : State, s.sys.mode = .starting →
        let ms := (Latch.list.filter fun l => (s.latches.get l).state != .unlocked).map Actuator.lock
        let u := if s.crash.latched = true ∧ ms ≠ [] then
            (runInternal { source := .crash, port := none, cls := .crash, action := .crashUnlock, members := ms
                           pattern := none } s).1
          else s
        (s.crash.held = false → startCrash s = u)
          ∧ (s.crash.held = true → startCrash s = (takeCrash none 0 (u.withCrash { u.crash with held := false })).1))

/-- Input changes outside RUN: in brown-out reset (the model's choice, log 4) and in STARTING, where the change of an
input that has not settled is a command too (log 18), the pins alone follow; in PARK a button, a touch sensor or the
key cylinder is ignored while its wake mask bit is clear, and acts after the return to RUN when it is set, a change
back to idle included: that it wakes the part is the model's choice (log 40). AJAR, LATCHPOS, CHPOS and ladder changes
act in PARK as in RUN, AJAR waking nothing by itself (the model's reading, log 22), a ladder leaving NEUTRAL setting
its channel waiting; the return captures WAKE and samples after 5 ms (the model's instant, log 36). -/
def Obligations.InputsOutsideRun : Prop :=
  (∀ (dt : Time) (c : Time → Instr) (b : Option Nat) (pins : Pins) (s : State), InputChange s c b pins →
      s.sys.inReset = true → exec (c dt) s = .next (advance dt (s.withPins pins)))
    ∧ (∀ (dt : Time) (c : Time → Instr) (b : Option Nat) (pins : Pins) (s : State), InputChange s c b pins →
        s.sys.inReset = false → s.sys.mode = .starting →
        exec (c dt) s = .next (refreshPark (advance dt (s.withPins pins))))
    ∧ (∀ (dt : Time) (c : Time → Instr) (b : Nat) (pins : Pins) (s : State), InputChange s c (some b) pins →
        s.sys.inReset = false → s.sys.mode = .park → s.cfg.wakeBit b = false →
        exec (c dt) s = .next (refreshPark (advance dt (s.withPins pins))))
    ∧ (∀ (dt : Time) (c : Time → Instr) (b : Nat) (pins : Pins) (s : State), InputChange s c (some b) pins →
        s.sys.inReset = false → s.sys.mode = .park → s.cfg.wakeBit b = true →
        exec (c dt) s = exec (c 0) (wake (advance dt s)))
    ∧ (∀ s : State, s.sys.mode = .park → ∃ t, wake s = t ∧ t.sys.mode = .run ∧ t.supply.sampleDue = s.now + msec 5
        ∧ (∀ p : Port, (t.events.get p).captured = (s.events.get p).captured ||| (Ev.wake.bit &&& (s.events.get p).mask)))
    ∧ (∀ (dt : Time) (s : State), s.sys.inReset = false → s.sys.mode ≠ .starting →
        (∀ (l : Latch) (v : Ajar), exec (.ajarChange dt l v) s =
            .next (refreshPark (takeAjar l v (advance dt (s.withPins { s.pins with ajar := s.pins.ajar.set l v })))))
          ∧ (∀ (l : Latch) (v : LockPos), exec (.latchposChange dt l v) s =
            .next (refreshPark (takeLatchpos l v
              (advance dt (s.withPins { s.pins with latchpos := s.pins.latchpos.set l v })))))
          ∧ (∀ (c : Side) (v : ChildPos), exec (.chposChange dt c v) s =
            .next (refreshPark (takeChpos c v (advance dt (s.withPins { s.pins with chpos := s.pins.chpos.set c v })))))
          ∧ (∀ (c : Chan) (x : Ladder), exec (.switchChannelChange dt c x) s =
            .next (refreshPark (takeSwitch c x
              (advance dt (s.withPins { s.pins with ladders := s.pins.ladders.set c x }))))))
    ∧ (∀ (dt : Time) (c : Chan) (pos : SwitchPos) (s : State), s.sys.inReset = false → s.sys.mode = .park →
        (s.chans.get c).position = .neutral → pos ≠ .neutral →
        exec (.switchChannelChange dt c (.band pos)) s = .next (refreshPark
          ((advance dt (s.withPins { s.pins with ladders := s.pins.ladders.set c (.band pos) })).modChan c fun _ =>
            { position := pos, waiting := true })))

/-! ### Invariants of every step -/

/-- Bits 28 to 31 of every event word stay 0. -/
def Obligations.EventWordsKept : Prop :=
  ∀ s t : State, EventsUsed s → step s = .next t → EventsUsed t

/-- Whenever any window drive is running, the costs of the running window drives do not exceed B − 4. -/
def Obligations.WindowBudgetKept : Prop :=
  ∀ s t : State, WindowBudget s → step s = .next t → WindowBudget t

/-- No two enrolled slots share an identifier, and every enrolled slot's ceiling exceeds its last accepted counter. -/
def Obligations.FobTableKept : Prop :=
  ∀ s t : State, FobsDistinct s.fobs → CeilingAhead s.fobs → step s = .next t →
    FobsDistinct t.fobs ∧ CeilingAhead t.fobs

/-- The playback queue holds at most four entries, the store queue no row twice, the sample list at most eight samples;
B stays within 0 to 20 and heat within 0 to 20. -/
def Obligations.QueuesAndRangesKept : Prop :=
  ∀ s t : State, FeedbackBounded s → StoreQueueOnce s → SupplyInRange s → HeatInRange s → step s = .next t →
    FeedbackBounded t ∧ StoreQueueOnce t ∧ SupplyInRange t ∧ HeatInRange t

/-- The invariants hold at the reset state. -/
def Obligations.InvariantsAtReset : Prop :=
  EventsUsed State.reset ∧ WindowBudget State.reset ∧ FobsDistinct State.reset.fobs ∧ CeilingAhead State.reset.fobs
    ∧ FeedbackBounded State.reset ∧ StoreQueueOnce State.reset ∧ SupplyInRange State.reset ∧ HeatInRange State.reset

/-! ### Supply and context -/

/-- A sample outside brown-out joins the list of eight; with eight of them V_f, the band and B follow, and without them
V_f, band and B stay. -/
def Obligations.SupplyFiltered : Prop :=
  ∀ (raw : Nat) (s : State), s.sys.inReset = false → 6000 ≤ raw → ∃ t, exec (.vbatSample raw) s = .next t
    ∧ t.supply.samples = (s.supply.samples ++ [min raw 32767]).drop (s.supply.samples.length + 1 - 8)
    ∧ (s.supply.samples.length < 7 → t.supply.vf = s.supply.vf ∧ t.supply.band = s.supply.band
        ∧ t.supply.budget = s.supply.budget)
    ∧ (s.supply.samples.length = 7 ∨ s.supply.samples.length = 8 → ∃ v, v = t.supply.samples.sum / 8
        ∧ t.supply.vf = some v ∧ t.supply.budget = min 20 ((v - 7000) / 400)
        ∧ (s.supply.band = .normal → v < 7000 → t.supply.band = .under)
        ∧ (s.supply.band = .normal → 16500 < v → t.supply.band = .over)
        ∧ (s.supply.band = .normal → 7000 ≤ v → v ≤ 16500 → t.supply.band = .normal)
        ∧ (s.supply.band = .under → 16500 < v → t.supply.band = .over)
        ∧ (s.supply.band = .under → 7500 < v → v ≤ 16500 → t.supply.band = .normal)
        ∧ (s.supply.band = .under → v ≤ 7500 → t.supply.band = .under)
        ∧ (s.supply.band = .over → v < 7000 → t.supply.band = .under)
        ∧ (s.supply.band = .over → 7000 ≤ v → v < 16000 → t.supply.band = .normal)
        ∧ (s.supply.band = .over → 16000 ≤ v → t.supply.band = .over))

/-- SET_CONTEXT: both fields written and fresh; the effects of a change from OFF and of a change to OFF; a payload
outside the lists leaves the record. On the radio or restraint port a staleness timer that has already expired stays
stopped while the record becomes fresh: the model's choice (log 41). A request is taken with the receiver IDLE again
and, on the body port while the ignition is not OFF, with the staleness timer restarted; its answer replaces the
port's response slot. The speed that rules test is MOVING while the record is stale. -/
def Obligations.ContextWritten : Prop :=
  (∀ (dt : Time) (p : Port) (a b : Byte) (i : Ignition) (v : Speed) (s : State), Receiving s p → Admitted s p 1 →
      ignitionOf a = some i → speedOf b = some v →
      exec (.setContext dt p [a, b]) s = .next (answered p 0x10 (Reply.of .ok)
        (let u := atOwner dt p s
         let w := u.withCtx { u.ctx with ignition := i, speed := v, fresh := true }
         if s.ctx.ignition = .off ∧ i ≠ .off then
           ignitionRelease (w.withCtx { w.ctx with retainedDue := none, staleDue := some (s.now + dt + sec 2) })
         else if s.ctx.ignition ≠ .off ∧ i = .off then
           w.withCtx { w.ctx with staleDue := none
                                  retainedDue := if s.cfg.retainedTime = 0 then none
                                                 else some (s.now + dt + s.cfg.retainedTime) }
         else w)))
    ∧ (∀ (dt : Time) (p : Port) (payload : List Byte) (s : State), Receiving s p → Admitted s p 1 →
        payload.length ≤ 14 → (∀ a b, payload = [a, b] → ignitionOf a = none ∨ speedOf b = none) →
        exec (.setContext dt p payload) s = .next (answered p 0x10 (Reply.of .badArgument) (atOwner dt p s)))
    -- the taking and the answering of a request
    ∧ (∀ (dt : Time) (p : Port) (s : State), let u := atOwner dt p s
        u = { s with now := u.now, pins := u.pins, ports := u.ports, ctx := u.ctx }
          ∧ u.now = s.now + dt ∧ u.pins = { s.pins with cs := s.pins.cs.set p false }
          ∧ (u.ports.get p = { s.ports.get p with receiving := false })
          ∧ (∀ q, q ≠ p → u.ports.get q = s.ports.get q)
          ∧ (p = .body → s.ctx.ignition ≠ .off → u.ctx = { s.ctx with staleDue := some (s.now + dt + sec 2) })
          ∧ (p ≠ .body ∨ s.ctx.ignition = .off → u.ctx = s.ctx))
    ∧ (∀ (p : Port) (code : Byte) (x : Reply) (s : State), answered p code x s = refreshPark (s.withPorts
        (s.ports.set p { s.ports.get p with slot := { echo := code, result := x.result, payload := x.payload } })))
    ∧ (∀ s : State, s.effSpeed = if s.ctx.fresh = true then s.ctx.speed else .moving)

/-- The two context timers: the record becomes stale, CONTEXT_STALE is captured when it was fresh, and every rule reads
the speed as MOVING; retained power ends. -/
def Obligations.ContextTimersExpire : Prop :=
  (∀ (d : Time) (s : State), s.ctx.staleDue = some d → ∃ t, exec .stalenessTimerExpiry s = .next t ∧ t.effSpeed = .moving
      ∧ t = refreshPark
        (let u := (reach d s).withCtx { s.ctx with staleDue := none, fresh := false }
         if s.ctx.fresh then offer .contextStale u else u))
    ∧ (∀ (d : Time) (s : State), s.ctx.retainedDue = some d →
        exec .retainedPowerExpiry s = .next (refreshPark ((reach d s).withCtx { s.ctx with retainedDue := none })))

/-! ### The drive arbiter -/

/-- Submission to the arbiter. The queue keeps its order when an entry is inserted: class descending, then sequence number
ascending. Without a running drive, or against one of another direction, an entry joins with a new sequence number, replaces
a queued one of no higher class with its number kept and its groups handed back as overruled, or is OVERRULED; on a running
drive of the same direction it merges and no entry changes; a class-4 UNLOCK preempts a running LOCK or DEADLOCK drive, with
a brake of 20 ms under a brake hold, and is then queued. A scan follows each QUEUED outcome. -/
def Obligations.DrivesSubmitted : Prop :=
  (∀ (e : Entry) (q : List Entry), q.Pairwise (fun a b => entryBefore a b = true) →
      (insertEntry e q).Pairwise (fun a b => entryBefore a b = true) ∧ (insertEntry e q).Perm (e :: q))
    ∧ (∀ a b : Entry, entryBefore a b = true ↔
        b.cls.rank < a.cls.rank ∨ a.cls = b.cls ∧ a.seq.toNat ≤ b.seq.toNat)
    ∧ (∀ (r : Request) (s : State),
        (∀ d, s.drive? r.act = some d →
          d.dir ≠ r.dir ∧ (r.cls ≠ .crash ∨ r.dir ≠ .unlock ∨ ∀ l, r.act ≠ .lock l)) →
        (s.entry? r.act = none → submit r s =
            (scan (s.withArb { s.arb with
              queue := insertEntry { act := r.act, dir := r.dir, cls := r.cls, source := r.source, seq := s.arb.seq
                                     waiting := r.group.toList, mode := r.mode, holdReported := false } s.arb.queue
              seq := s.arb.seq + 1 }), .queued))
          ∧ (∀ e, s.entry? r.act = some e → e.cls.rank ≤ r.cls.rank → submit r s =
            (scan (settleList r.act .overruled (e.waiting.filter fun g => !r.group.toList.contains g)
              (s.withArb { s.arb with
                queue := insertEntry { e with dir := r.dir, cls := r.cls, source := r.source, mode := r.mode
                                              waiting := r.group.toList, holdReported := false }
                  (s.arb.queue.filter (·.act != r.act)) })), .queued))
          ∧ (∀ e, s.entry? r.act = some e → r.cls.rank < e.cls.rank → submit r s = (s, .overruled)))
    ∧ (∀ (r : Request) (d : Drive) (s : State), s.drive? r.act = some d → d.dir = r.dir → submit r s =
        (s.withArb { s.arb with running := s.arb.running.map fun x =>
          if x.act = r.act then
            { x with waiting := x.waiting ++ r.group.toList.filter fun g => !x.waiting.contains g }
          else x }, .merged))
    ∧ (∀ (r : Request) (l : Latch) (d : Drive) (s : State), r.act = .lock l → r.cls = .crash → r.dir = .unlock →
        s.drive? (.lock l) = some d → d.dir ≠ .unlock →
        ∃ u, u = settleList (.lock l) .overruled d.waiting (reconcileLatch l
            (((s.withArb { s.arb with
                running := s.arb.running.filter (·.act != .lock l)
                holds := if s.held (.lock l) then s.arb.holds else s.arb.holds ++ [.lock l] }).modLatch l fun x =>
              { x with driveDue := none, settleDue := none, openLoad := false
                       brakeDue := some (s.now + msec 20) }).setStage (.lock l) .brake))
          ∧ u.drive? (.lock l) = none ∧ submit r s = submit r u ∧ (submit r s).2 = .queued)
    ∧ (∀ (l : Latch) (s : State), reconcileLatch l s =
        match (s.latches.get l).position, (s.latches.get l).state with
        | .locked, .unlocked => setLatchState l .locked s
        | .unlocked, .locked => setLatchState l .unlocked s
        | .unlocked, .deadlocked => setLatchState l .unlocked s
        | _, _ => s)
    ∧ [Cls.comfort, .access, .occupant, .crash].map Cls.rank = [1, 2, 3, 4]

/-- In UNDER a scan grants nothing. In NORMAL the head of the queue, when it is not held back and fits, joins the end
of the running list, and a lock motor, child actuator or release entry that does not fit is granted when nothing runs.
The walk passes over an entry whose actuator is busy, a window entry in OVER, and an entry of class 1 to 3 of a HOT
motor, with THERMAL_HOLD captured once (one that is both busy and HOT counts as busy: the model's choice, log 39); an
entry not passed over is granted when it fits, or when nothing runs and it is no window's, in NORMAL and OVER alike,
and otherwise ends the walk; a class-4 entry that does not fit revokes window drives, youngest first, until it fits or
none is left. A window drive costs 4 units, a lock motor and the release 2, a child actuator 1. A grant tells the
owner, which starts the drive. A window bridge in DRIVE has a duty that starts at 40 %, never falls, stays within 40
to 100 % and is 100 % from 80 ms on; the shape of the rise is free (log 11). -/
def Obligations.ScanGrantsHead : Prop :=
  (∀ s : State, s.supply.band = .under → scan s = s)
    ∧ (∀ (e : Entry) (rest : List Entry) (s : State), s.supply.band = .normal → s.arb.queue = e :: rest →
        s.busy e = false → s.hotHeld e = false →
        (s.fits e = true ∨ (e.cls ≠ .crash ∧ actIsWindow e.act = false ∧ s.arb.running = [])) →
        scan s = walk rest (grantEntry e s))
    ∧ (∀ (e : Entry) (rest : List Entry) (s : State), s.supply.band = .normal → s.arb.queue = e :: rest →
        s.busy e = false → s.hotHeld e = false → e.cls ≠ .crash → s.fits e = false →
        (actIsWindow e.act = true ∨ s.arb.running ≠ []) → scan s = s)
    ∧ (∀ s : State, s.supply.band ≠ .under → scan s = walk s.arb.queue s)
    ∧ (∀ s : State, walk [] s = s)
    ∧ (∀ (e : Entry) (rest : List Entry) (s : State),
        (s.busy e = true → walk (e :: rest) s = walk rest s)
          ∧ (s.busy e = false → s.hotHeld e = true → e.holdReported = true → walk (e :: rest) s = walk rest s)
          ∧ (s.busy e = false → s.hotHeld e = true → e.holdReported = false → walk (e :: rest) s =
            walk rest (offer .thermalHold (s.withArb { s.arb with
              queue := s.arb.queue.map fun x => if x.act = e.act then { x with holdReported := true } else x })))
          ∧ (s.busy e = false → s.hotHeld e = false → s.supply.band = .over →
            actIsWindow e.act = true → walk (e :: rest) s = walk rest s)
          ∧ (s.busy e = false → s.hotHeld e = false → s.supply.band = .over → actIsWindow e.act = false →
            s.fits e = true → walk (e :: rest) s = walk rest (grantEntry e s)))
    -- an eligible entry wherever the walk meets it
    ∧ (∀ (e : Entry) (rest : List Entry) (s : State), s.supply.band ≠ .under →
        s.busy e = false → s.hotHeld e = false → (s.supply.band = .over → actIsWindow e.act = false) →
        (s.fits e = true → walk (e :: rest) s = walk rest (grantEntry e s))
          ∧ (s.fits e = false → e.cls ≠ .crash → actIsWindow e.act = false → s.arb.running = [] →
            walk (e :: rest) s = walk rest (grantEntry e s))
          ∧ (s.fits e = false → e.cls ≠ .crash → (actIsWindow e.act = true ∨ s.arb.running ≠ []) →
            walk (e :: rest) s = s))
    ∧ (∀ (e : Entry) (s : State),
        (s.busy e = true ↔ s.drive? e.act ≠ none ∨ e.act ∈ s.arb.holds)
          ∧ (s.hotHeld e = true ↔ e.cls ≠ .crash ∧ ∃ l, e.act = .lock l ∧ (s.latches.get l).hot = true)
          ∧ (s.fits e = true ↔ if actIsWindow e.act = true then s.windowUnits + 8 ≤ s.supply.budget ∧ s.supply.band = .normal
            else s.units + actCost e.act ≤ s.supply.budget))
    ∧ ((∀ w, actCost (.window w) = 4) ∧ (∀ l, actCost (.lock l) = 2) ∧ actCost .release = 2 ∧ ∀ c, actCost (.child c) = 1)
    ∧ (∀ s : State, s.units = (s.arb.running.map fun d => actCost d.act).sum
        ∧ s.windowUnits = 4 * (s.arb.running.filter fun d => actIsWindow d.act).length)
    ∧ (∀ (e : Entry) (rest : List Entry) (s : State), e.cls = .crash → actIsWindow e.act = false →
        s.supply.band ≠ .under → s.busy e = false → s.fits e = false →
        ∃ u, u = revokeUntil (fun t => t.fits e) s.youngestWindows s
          ∧ (u.fits e = true → walk (e :: rest) s = walk rest (grantEntry e u))
          ∧ (u.fits e = false → u.arb.running = [] → walk (e :: rest) s = walk rest (grantEntry e u))
          ∧ (u.fits e = false → u.arb.running ≠ [] → walk (e :: rest) s = u))
    ∧ (∀ (e : Entry) (s : State), ∃ t, grantEntry e s = t
        ∧ t.arb = { s.arb with
            queue := s.arb.queue.filter (·.act != e.act)
            running := s.arb.running ++ [{ act := e.act, dir := e.dir, cls := e.cls, source := e.source, seq := e.seq
                                           waiting := e.waiting, mode := e.mode }]
            seq := if (s.arb.queue.filter (·.act != e.act)).isEmpty then 0 else s.arb.seq }
        ∧ (∀ l, e.act = .lock l → t.stages.get (.lock l) = .drive e.dir ∧ (t.latches.get l).attempts = 0
            ∧ (t.latches.get l).retries = s.cfg.retryCount
            ∧ (t.latches.get l).driveDue = some (s.now + s.cfg.lockDriveTime))
        ∧ (∀ c, e.act = .child c → t.stages.get (.child c) = .drive e.dir ∧ (t.child.recs.get c).attempts = 0
            ∧ (t.child.recs.get c).retries = s.cfg.retryCount
            ∧ (t.child.recs.get c).driveDue = some (s.now + msec 120))
        ∧ (e.act = .release → t.stages.get .release = .drive .release
            ∧ t.release.pulseDue = some (s.now + s.cfg.releasePulse)
            ∧ ((s.latches.get .tg).ajar = .closed → t.release.watchDue = some (s.now + sec 1))
            ∧ ((s.latches.get .tg).ajar = .opened → t.release.watchDue = none ∧ t.release.last = .opened))
        ∧ (∀ w, e.act = .window w → e.dir = .up ∨ e.dir = .down →
            t.stages.get (.window w) = .drive e.dir ∧ (t.windows.get w).runDue = some (s.now + sec 8)
              ∧ (t.windows.get w).driveFrom = s.now ∧ (t.windows.get w).edges = 0 ∧ (t.windows.get w).wrong = 0
              ∧ (t.windows.get w).noPulseArmed = true ∧ (t.windows.get w).mode = e.mode
              ∧ (t.windows.get w).source = some e.source ∧ (t.windows.get w).cls = some e.cls
              ∧ ((s.windows.get w).norm ≠ .learned → (t.windows.get w).p = 1024)
              ∧ ((s.windows.get w).norm = .learned → (t.windows.get w).p = (s.windows.get w).p)
              ∧ ((s.windows.get w).run ≠ .reversing →
                  (t.windows.get w).run = if e.dir = .up then .runUp else .runDown)))
    ∧ (∀ (w : Win) (s : State),
        (∀ (d : Dir) (a b : Time), s.stages.get (.window w) = .drive d →
            let f := (s.windows.get w).driveFrom
            let duty (t : Time) : Nat := (s.withNow (f + t)).duty w
            duty 0 = 40 ∧ 40 ≤ duty a ∧ duty a ≤ 100 ∧ (msec 80 ≤ a → duty a = 100) ∧ (a ≤ b → duty a ≤ duty b))
          ∧ ((∀ d, s.stages.get (.window w) ≠ .drive d) → s.duty w = 0))

/-- Revocation. Both the band and B take their new values with a new V_f, which clears the supply in range of every
run computation when it lies outside 10500 to 15500 mV; then the band is handed on, with SUPPLY_BAND captured when it
changed, and then B (that order is the model's reading, log 19); UNDER and OVER revoke every running window drive, a
fall of B revokes the youngest window drive first until the running ones fit B − 4, and a scan follows each change. A
revoked drive leaves the running list at once; its bridge brakes for 40 ms, or keeps the brake in progress, under a
brake hold; its movement is dropped, the stop is pending with REVOKED, or CRASH under the latch, unless it has a
cause, and DRIVE_REVOKED is captured (log 13 for the fields during the brake). -/
def Obligations.WindowsRevoked : Prop :=
  (∀ (raw : Nat) (s : State), s.sys.inReset = false → 6000 ≤ raw →
      s.supply.samples.length = 7 ∨ s.supply.samples.length = 8 →
      ∃ u, exec (.vbatSample raw) s =
          .next (refreshPark (handBudget s.supply.budget (handBand s.supply.band u)))
        ∧ u.arb = s.arb ∧ u.events = s.events ∧ u.stages = s.stages ∧ u.windows = s.windows
        ∧ ∃ v, u.supply.vf = some v ∧ ∀ w : Win, u.pinch.get w = { s.pinch.get w with
            run := (s.pinch.get w).run.map fun r =>
              { r with inRange := r.inRange && decide (10500 ≤ v ∧ v ≤ 15500) } })
    ∧ (∀ (b : Band) (s : State),
        (s.supply.band = b → handBand b s = s)
          ∧ (s.supply.band ≠ b → s.supply.band = .normal → handBand b s = scan (offer .supplyBand s))
          ∧ (s.supply.band ≠ b → s.supply.band ≠ .normal → handBand b s =
            scan (s.youngestWindows.foldl (fun x w => revokeWindow w x) (offer .supplyBand s))))
    ∧ (∀ (b : Nat) (s : State),
        (s.supply.budget = b → handBudget b s = s)
          ∧ (b < s.supply.budget → handBudget b s = scan s)
          ∧ (s.supply.budget < b → handBudget b s = scan (revokeForSupply s)))
    ∧ (∀ s : State, s.supply.band = .normal → revokeForSupply s =
        revokeUntil (fun x => decide (x.windowUnits + 4 ≤ x.supply.budget)) s.youngestWindows s)
    ∧ (∀ s : State, (revokeForSupply s).windowUnits = 0
        ∨ (revokeForSupply s).windowUnits + 4 ≤ (revokeForSupply s).supply.budget)
    ∧ (∀ (enough : State → Bool) (w : Win) (ws : List Win) (s : State),
        revokeUntil enough [] s = s
          ∧ (enough s = true → revokeUntil enough (w :: ws) s = s)
          ∧ (enough s = false → revokeUntil enough (w :: ws) s = revokeUntil enough ws (revokeWindow w s)))
    ∧ (∀ (d : Drive) (s : State) (ds : List Drive), s.arb.running = ds ++ [d] →
        (∀ w, d.act = .window w → s.youngestWindows = w :: (s.withArb { s.arb with running := ds }).youngestWindows)
          ∧ ((∀ w, d.act ≠ .window w) → s.youngestWindows = (s.withArb { s.arb with running := ds }).youngestWindows))
    ∧ (∀ (w : Win) (s : State), s.sys.mode = .run →
        let t := revokeWindow w s
        let r := s.windows.get w
        t.arb = { s.arb with
            running := s.arb.running.filter (·.act != .window w)
            holds := if s.held (.window w) then s.arb.holds else s.arb.holds ++ [.window w] }
          ∧ t.stages = s.stages.set (.window w) .brake
          ∧ t.windows.get w = { r with
              run := .brake, nextDir := none, normPhase := .none, mode := none, source := none, cls := none
              runDue := none, noPulseArmed := false
              pending := some (r.pending.getD (if s.crash.latched then .crash else .revoked))
              brakeDue := if s.stages.get (.window w) = .brake then r.brakeDue else some (s.now + msec 40) }
          ∧ (∀ v, v ≠ w → t.windows.get v = s.windows.get v)
          ∧ (t.pinch.get w).run = none ∧ (t.pinch.get w).rev = (s.pinch.get w).rev ∧ t.comfort.get w = false
          ∧ (∀ p : Port, (t.events.get p).captured =
              (s.events.get p).captured ||| (Ev.driveRevoked.bit &&& (s.events.get p).mask))
          ∧ t.latches = s.latches ∧ t.supply = s.supply)
    ∧ (∀ (w : Win) (s : State), s.held (.window w) = true →
        endWindowDrive w s = scan (s.withArb { s.arb with holds := s.arb.holds.filter (· != .window w) }))

/-- An overcurrent turns the stage OFF and is recorded by its owner. A latch or child drive ends with fault SHORT, its
timers stopped and the failure reported to its groups, and the state then follows the position; a brake hold of a
latch ends; the release records a failed pulse with LOCK_FAULT; a window stops FAULTED with OVERCURRENT. In OFF
nothing happens. -/
def Obligations.OvercurrentEndsDrives : Prop :=
  (∀ (dt : Time) (l : Latch) (d : Dir) (s : State), s.sys.inReset = false → s.stages.get (.lock l) = .drive d →
      exec (.stageOvercurrent dt (.lock l)) s =
        .next (refreshPark (reconcileLatch l (endReport (.lock l) false
          (((advance dt s).setStage (.lock l) .off).modLatch l fun r =>
            { r with fault := .short, driveDue := none, settleDue := none, openLoad := false })))))
    ∧ (∀ (dt : Time) (l : Latch) (s : State), s.sys.inReset = false → s.stages.get (.lock l) = .brake →
        exec (.stageOvercurrent dt (.lock l)) s =
          .next (refreshPark (scan (removeHold (.lock l) (((advance dt s).modLatch l fun r =>
            { r with fault := .short, brakeDue := none }).setStage (.lock l) .off)))))
    ∧ (∀ (dt : Time) (c : Side) (d : Dir) (s : State), s.sys.inReset = false → s.stages.get (.child c) = .drive d →
        exec (.stageOvercurrent dt (.child c)) s =
          .next (refreshPark
            (let u := endReport (.child c) false (((advance dt s).setStage (.child c) .off).modChild c fun r =>
               { r with fault := .short, driveDue := none, settleDue := none, openLoad := false })
             setChildState c (u.child.recs.get c).position u)))
    ∧ (∀ (dt : Time) (d : Dir) (s : State), s.sys.inReset = false → s.stages.get .release = .drive d →
        exec (.stageOvercurrent dt .release) s = .next (refreshPark (endReport .release false (offer .lockFault
          (((advance dt s).withRelease { pulseDue := none, watchDue := none, last := .short }).setStage .release .off)))))
    ∧ (∀ (dt : Time) (w : Win) (s : State), s.sys.inReset = false → s.stages.get (.window w) ≠ .off →
        exec (.stageOvercurrent dt (.window w)) s =
          .next (refreshPark (endWindowDrive w (settleFaulted w .overcurrent .overcurrent
            ((endRun w (advance dt s)).setStage (.window w) .off)))))
    ∧ (∀ (dt : Time) (a : Actuator) (s : State), s.sys.inReset = false → s.stages.get a = .off →
        exec (.stageOvercurrent dt a) s = .next (refreshPark (advance dt s)))

/-! ### Latches -/

/-- The energized period of a lock motor ends at its drive time or at a stall: bridge OFF, SETTLING for 40 ms, the
open-load report kept; SETTLING ends in a failure on open load, success at the target, a retry while retries are left,
NO_CONFIRM otherwise; a brake hold ends with the bridge OFF and a scan. The release, the windows and an idle stage do
not use a stall report. A failure records its fault, reports the end of the drive and lets the state follow the
position; a success clears fault and attempts, takes the state of the direction and reports the end. A side door's
deadlock bit follows its state, the STATE row being written when the bit changes; the bits read 0 when the stored byte
lies outside its list. -/
def Obligations.LockDriveRuns : Prop :=
  (∀ (l : Latch) (o : Bool) (d : Time) (s : State), (s.latches.get l).driveDue = some d →
      exec (.lockDriveTimeExpiry l o) s = .next (refreshPark (((reach d s).modLatch l fun r =>
        { r with driveDue := none, settleDue := some (max s.now d + msec 40), openLoad := o }).setStage (.lock l) .off)))
    ∧ (∀ (dt : Time) (l : Latch) (o : Bool) (d : Dir) (s : State), s.sys.inReset = false →
        s.stages.get (.lock l) = .drive d →
        exec (.stageStall dt (.lock l) o) s = .next (refreshPark (((advance dt s).modLatch l fun r =>
          { r with driveDue := none, settleDue := some (s.now + dt + msec 40), openLoad := o }).setStage (.lock l) .off)))
    ∧ (∀ (dt : Time) (a : Actuator) (o : Bool) (s : State), s.sys.inReset = false →
        (a = .release ∨ (∃ w, a = .window w) ∨ ∀ d, s.stages.get a ≠ .drive d) →
        exec (.stageStall dt a o) s = .next (refreshPark (advance dt s)))
    ∧ (∀ (l : Latch) (d : Time) (s : State), (s.latches.get l).settleDue = some d → s.drive? (.lock l) = none →
        exec (.lockSettleEnd l) s = .next (refreshPark ((reach d s).modLatch l fun r => { r with settleDue := none })))
    ∧ (∀ (l : Latch) (d : Time) (dr : Drive) (s : State), (s.latches.get l).settleDue = some d → s.drive? (.lock l) = some dr →
       exec (.lockSettleEnd l) s = .next (refreshPark
         (let u := reach d s
          let r := s.latches.get l
          if r.openLoad then failLock l .openLoad u
          else if r.position = (if dr.dir = .unlock then LockPos.unlocked else LockPos.locked) then succeedLock l dr.dir u
          else if r.attempts < r.retries then
            energizeLock l dr.dir (u.modLatch l fun r => { r with attempts := r.attempts + 1 })
          else failLock l .noConfirm u)))
    ∧ (∀ (l : Latch) (d : Time) (s : State), (s.latches.get l).brakeDue = some d →
       exec (.lockBrakeHoldEnd l) s = .next (refreshPark (scan (removeHold (.lock l)
         (((reach d s).modLatch l fun r => { r with brakeDue := none }).setStage (.lock l) .off)))))
    ∧ (∀ (l : Latch) (f : DriveFault) (s : State), failLock l f s = reconcileLatch l (endReport (.lock l) false
        (s.modLatch l fun r => { r with fault := f, driveDue := none, settleDue := none, openLoad := false })))
    ∧ (∀ (l : Latch) (d : Dir) (s : State), succeedLock l d s = endReport (.lock l) true (setLatchState l
        (if d = .unlock then .unlocked else if d = .deadlock then .deadlocked else .locked)
        (s.modLatch l fun r => { r with fault := .none, attempts := 0, settleDue := none })))
    ∧ (∀ (l : Latch) (v : LatchState) (s : State),
        let u := s.modLatch l fun r => { r with state := v }
        let dead : Bool := v == .deadlocked
        (l = .tg → setLatchState l v s = u)
          ∧ (∀ n, (l, n) ∈ [(Latch.fl, 0), (.fr, 1), (.rl, 2), (.rr, 3)] →
            (s.deadlockBits.getLsbD n = dead → setLatchState l v s = u)
              ∧ (s.deadlockBits.getLsbD n ≠ dead → ∃ b : Byte, setLatchState l v s = writeStateByte 3 b u ∧ b.toNat ≤ 15
                ∧ ∀ m, m < 4 → b.getLsbD m = if m = n then dead else s.deadlockBits.getLsbD m)))
    ∧ (∀ s : State, s.deadlockBits = if (s.row 4)[3].toNat ≤ 15 then (s.row 4)[3] else 0)

/-- AJAR changes in RUN: the field is set; OPEN on any latch stops auto-relock, on FL or FR ends retained power, on TG
ends a watch in progress with OPENED. A LATCHPOS change within a drive sets the position alone; outside one the state
follows it by the table of manual changes, LOCK_CHANGED being captured once. -/
def Obligations.DoorInputsTaken : Prop :=
  (∀ (dt : Time) (l : Latch) (v : Ajar) (s : State), Awake s → (s.latches.get l).ajar ≠ v →
      exec (.ajarChange dt l v) s = .next (refreshPark
        (let u := (advance dt (s.withPins { s.pins with ajar := s.pins.ajar.set l v })).modLatch l fun r =>
           { r with ajar := v }
         if v = .closed then u
         else
           let u := u.withPresses { s.presses with relockDue := none }
           if l = .fl ∨ l = .fr then u.withCtx { s.ctx with retainedDue := none }
           else if l = .tg ∧ s.release.watchDue.isSome then
             u.withRelease { s.release with watchDue := none, last := .opened }
           else u)))
    ∧ (∀ (dt : Time) (l : Latch) (v : Ajar) (s : State), Awake s → (s.latches.get l).ajar = v →
        exec (.ajarChange dt l v) s =
          .next (refreshPark (advance dt (s.withPins { s.pins with ajar := s.pins.ajar.set l v }))))
    ∧ (∀ (dt : Time) (l : Latch) (v : LockPos) (s : State), Awake s → (s.latches.get l).position ≠ v →
        (s.drive? (.lock l)).isSome →
        exec (.latchposChange dt l v) s = .next (refreshPark
          ((advance dt (s.withPins { s.pins with latchpos := s.pins.latchpos.set l v })).modLatch l fun r =>
            { r with position := v })))
      ∧ (∀ (dt : Time) (l : Latch) (v : LockPos) (st : LatchState) (s : State), Awake s → (s.latches.get l).position ≠ v →
          s.drive? (.lock l) = none →
          ((s.latches.get l).state, v, st) ∈
            [(LatchState.unlocked, LockPos.locked, LatchState.locked), (.locked, .unlocked, .unlocked),
             (.deadlocked, .unlocked, .unlocked)] →
          exec (.latchposChange dt l v) s = .next (refreshPark (setLatchState l st (offer .lockChanged
            ((advance dt (s.withPins { s.pins with latchpos := s.pins.latchpos.set l v })).modLatch l fun r =>
              { r with position := v })))))

/-- Energizing a lock motor raises its heat by one up to 20, makes it HOT at 12, leaves HOT as it was below 12, and
starts the cooling timer from 0, a running one keeping its instant; a cooling expiry lowers heat by one, restarts the
timer while heat is left, and ends HOT with a grant scan at 8. -/
def Obligations.HeatCounted : Prop :=
  (∀ (l : Latch) (d : Time) (s : State), (s.latches.get l).coolDue = some d →
     exec (.heatCoolingExpiry l) s = .next (refreshPark
       (let h := (s.latches.get l).heat - 1
        let cooled : Bool := (s.latches.get l).hot && h ≤ 8
        let u := (reach d s).modLatch l fun r =>
          { r with heat := h, hot := r.hot && !cooled, coolDue := if 0 < h then some (max s.now d + sec 5) else none }
        if cooled then scan u else u)))
    ∧ (∀ (l : Latch) (d : Dir) (s : State),
       ((energizeLock l d s).latches.get l).heat = min 20 ((s.latches.get l).heat + 1)
         ∧ (11 ≤ (s.latches.get l).heat → ((energizeLock l d s).latches.get l).hot = true)
         ∧ ((s.latches.get l).heat < 11 → ((energizeLock l d s).latches.get l).hot = (s.latches.get l).hot)
         ∧ ((s.latches.get l).heat ≠ 0 →
           ((energizeLock l d s).latches.get l).coolDue = (s.latches.get l).coolDue)
         ∧ ((s.latches.get l).heat = 0 → ((energizeLock l d s).latches.get l).coolDue = some (s.now + sec 5))
         ∧ ((energizeLock l d s).latches.get l).driveDue = some (s.now + (s.latches.get l).driveTime)
         ∧ (energizeLock l d s).stages.get (.lock l) = .drive d
         ∧ ∀ m, m ≠ l → (energizeLock l d s).latches.get m = s.latches.get m)

/-- LOCK_REQUEST: a target and an action of the table, an origin and a pattern of their lists are carried out as one
group; anything else is refused BAD_ARGUMENT with group id 0, auto-relock being cancelled all the same (the model's
choice, log 38). -/
def Obligations.LockRequested : Prop :=
  (∀ (dt : Time) (p : Port) (target action origin pattern : Byte) (act : Action) (ms : List Actuator) (cls : Cls)
      (pat : Option (Fin 8)) (s : State), Receiving s p → Admitted s p 2 → s.lockTable target action = some (act, ms) →
      originClass origin = some cls → patternOf pattern = some pat →
      exec (.lockRequest dt p [target, action, origin, pattern]) s = .next
        (let x := lockOperation { source := .bodyPort, port := some p, cls := cls, action := act, members := ms
                                  pattern := pat } false (atOwner dt p s)
         answered p 0x20 { result := x.2.1, payload := [byteOf x.2.2] } x.1))
    ∧ (∀ (dt : Time) (p : Port) (payload : List Byte) (s : State), Receiving s p → Admitted s p 2 →
        payload.length ≤ 14 → (∀ a b c d, payload = [a, b, c, d] →
          s.lockTable a b = none ∨ originClass c = none ∨ patternOf d = none) →
        exec (.lockRequest dt p payload) s = .next (answered p 0x20 { result := .badArgument, payload := [0] }
          ((atOwner dt p s).withPresses { s.presses with relockDue := none })))
    ∧ (∀ s : State, s.lockTable 0 0 = some (.lockAll, Latch.list.map .lock)
        ∧ s.lockTable 0 1 = some (.unlockAll, Latch.list.map .lock)
        ∧ s.lockTable 0 2 = some (.deadlockAll, Latch.sides.map .lock)
        ∧ s.lockTable 1 1 = some (.unlockDriver, [.lock s.driverLatch])
        ∧ s.lockTable 2 1 = some (.unlockDoor, [.lock .fl]) ∧ s.lockTable 3 1 = some (.unlockDoor, [.lock .fr])
        ∧ s.lockTable 4 1 = some (.unlockDoor, [.lock .rl]) ∧ s.lockTable 5 1 = some (.unlockDoor, [.lock .rr])
        ∧ s.lockTable 6 0 = some (.lockTg, [.lock .tg]) ∧ s.lockTable 6 1 = some (.unlockTg, [.lock .tg]))
    ∧ (∀ s : State, s.driverLatch = match s.sys.dside with | .left => .fl | .right => .fr)

/-- A lock operation cancels auto-relock and is checked in order: a locking one is refused under the CRASH latch, a fob or
passive LOCK_ALL (door check) while the driver's door is ajar, a deadlock by its four conditions in order, and any of them
when the table is full; one that is not refused is carried out as a group. -/
def Obligations.LockRefusals : Prop :=
  ∀ (op : Operation) (door : Bool) (s : State),
    let u := s.withPresses { s.presses with relockDue := none }
    let lock := op.action.dir = .lock
    let dead := op.action.dir = .deadlock
    let shut := ¬ (door = true ∧ (s.latches.get s.driverLatch).ajar = .opened)
    (s.crash.latched = true → op.action.dir ≠ .unlock → lockOperation op door s = (u, .crashActive, 0))
      ∧ ((s.crash.latched = false ∨ op.action.dir = .unlock) → ¬ shut → lockOperation op door s = (u, .doorOpen, 0))
      ∧ (dead → s.crash.latched = false → shut → s.cfg.deadlockEnable = false →
        lockOperation op door s = (u, .disabled, 0))
      ∧ (dead → s.crash.latched = false → shut → s.cfg.deadlockEnable = true → s.ctx.ignition ≠ .off →
        lockOperation op door s = (u, .ignitionState, 0))
      ∧ (dead → s.crash.latched = false → shut → s.cfg.deadlockEnable = true → s.ctx.ignition = .off →
        (s.ctx.fresh = false ∨ s.ctx.speed = .moving) → lockOperation op door s = (u, .moving, 0))
      ∧ (dead → s.crash.latched = false → shut → s.cfg.deadlockEnable = true → s.ctx.ignition = .off →
        s.ctx.fresh = true → s.ctx.speed = .standstill → (∃ l : Latch, (s.latches.get l).ajar = .opened) →
        lockOperation op door s = (u, .doorOpen, 0))
      ∧ (dead → s.crash.latched = false → shut → s.cfg.deadlockEnable = true → s.ctx.ignition = .off →
        s.ctx.fresh = true → s.ctx.speed = .standstill → (∀ l : Latch, (s.latches.get l).ajar = .closed) →
        lockOperation op door s = if 6 ≤ s.groups.entries.length then (u, .busy, 0) else runGroup op u)
      ∧ (lock → s.crash.latched = false → shut →
        lockOperation op door s = if 6 ≤ s.groups.entries.length then (u, .busy, 0) else runGroup op u)
      ∧ (op.action.dir = .unlock → shut →
        lockOperation op door s = if 6 ≤ s.groups.entries.length then (u, .busy, 0) else runGroup op u)

/-- Groups. An accepted request opens a group with a free id and submits its members in order: one at its target leaves
outstanding, one answered OVERRULED joins overruled; with every member OVERRULED the group is removed and refused. A member
leaves outstanding by its drive's outcome, and a group with none outstanding completes: its event, its pattern or pattern 4
after a failure, the record of its port, its removal, and the auto-relock timer after a class-2 unlock without failure. An
end report settles the waiting groups in order; a lock drive that no group waits on reports its own end. An internal
operation on a full table submits its members without a group. -/
def Obligations.GroupsSettled : Prop :=
  (∀ s : State, s.groups.entries.length ≤ 6 → 1 ≤ s.groups.nextId → s.groups.nextId ≤ 255 →
      1 ≤ s.newGroupId ∧ s.newGroupId ≤ 255 ∧ (∀ g ∈ s.groups.entries, g.id ≠ s.newGroupId)
        ∧ ((∀ g ∈ s.groups.entries, g.id ≠ s.groups.nextId) → s.newGroupId = s.groups.nextId))
    ∧ (∀ (op : Operation) (s : State),
        let id := s.newGroupId
        let x := submitMembers op (some id) (s.withGroups { s.groups with
          entries := s.groups.entries ++ [{ id := id, source := op.source, port := op.port, cls := op.cls
                                            action := op.action, members := op.members, outstanding := op.members
                                            failed := [], overruled := [], pattern := op.pattern }]
          nextId := if 255 ≤ id then 1 else id + 1 })
        (x.2.taken = true → runGroup op s =
            (testCompletion id x.1, if x.2.queued then .queued else if x.2.merged then .merged else .ok, id))
          ∧ (x.2.taken = false → runGroup op s =
            (x.1.withGroups { x.1.groups with entries := x.1.groups.entries.filter fun g => g.id != id },
              .overruled, 0)))
    ∧ (∀ (op : Operation) (id : Option Nat) (ms : List Actuator) (a : Actuator) (s : State),
        submitMembers { op with members := [] } id s = (s, { queued := false, merged := false, taken := false })
          ∧ submitMembers { op with members := ms ++ [a] } id s =
              submitMember op id a (submitMembers { op with members := ms } id s))
    ∧ (∀ (op : Operation) (n : Nat) (a : Actuator) (t : Tally) (s : State),
        let settle (o : Settled) (u : State) : State := u.withGroups { u.groups with
          entries := u.groups.entries.map fun g => if g.id = n then g.settle a o else g }
        let atTarget := op.action ≠ .crashUnlock ∧ s.stateIsTarget op.action.dir a = true ∧ s.entry? a = none
          ∧ s.drive? a = none
        let x := submit { act := a, dir := op.action.dir, cls := op.cls, source := op.source, mode := none
                          group := some n } s
        (atTarget → submitMember op (some n) a (s, t) = (settle .success s, { t with taken := true }))
          ∧ (¬ atTarget → x.2 = .queued →
            submitMember op (some n) a (s, t) = (x.1, { t with queued := true, taken := true }))
          ∧ (¬ atTarget → x.2 = .merged →
            submitMember op (some n) a (s, t) = (x.1, { t with merged := true, taken := true }))
          ∧ (¬ atTarget → x.2 = .overruled → submitMember op (some n) a (s, t) = (settle .overruled x.1, t)))
    ∧ (∀ (a : Actuator) (o : Settled) (g : Group),
        (a ∉ g.outstanding → g.settle a o = g)
          ∧ (a ∈ g.outstanding → g.settle a o = { g with
              outstanding := g.outstanding.filter (· != a)
              failed := if o = .failed then g.failed ++ [a] else g.failed
              overruled := if o = .overruled then g.overruled ++ [a] else g.overruled }))
    ∧ (∀ (id : Nat) (s : State),
        (∀ g, s.group? id = some g → g.outstanding ≠ [] → testCompletion id s = s)
          ∧ (s.group? id = none → testCompletion id s = s)
          ∧ (∀ g, s.group? id = some g → g.outstanding = [] → testCompletion id s =
            (let child : Bool := g.action == .childEngage || g.action == .childDisengage
             let u := offer (if child then (if g.failed = [] then .childChanged else .childFault)
                             else if g.failed = [] then .lockChanged else .lockFault) s
             let v := match g.pattern with
               | none => u
               | some i => patternRequest (if g.failed = [] then i else 4) u
             let last := match g.port with
               | none => v.groups.last
               | some p => v.groups.last.set p (some g)
             let w := v.withGroups { v.groups with entries := v.groups.entries.filter (fun x => x.id != id)
                                                   last := last }
             if g.cls = .access ∧ (g.action = .unlockAll ∨ g.action = .unlockDriver ∨ g.action = .unlockDoor)
                ∧ g.failed = [] ∧ w.cfg.relockTime ≠ 0 ∧ s.ctx.ignition = .off
                ∧ (∀ l ∈ Latch.list, (s.latches.get l).ajar = .closed) then
               w.withPresses { w.presses with relockDue := some (w.now + w.cfg.relockTime) }
             else w)))
    ∧ (∀ (a : Actuator) (ok : Bool) (s : State),
        (s.drive? a = none → endReport a ok s = s)
          ∧ (∀ d, s.drive? a = some d → endReport a ok s =
            (let u := settleList a (if ok then .success else .failed) d.waiting
               (s.withArb { s.arb with running := s.arb.running.filter (·.act != a) })
             match d.act, d.waiting with
             | .lock _, [] => scan (offer (if ok then .lockChanged else .lockFault) u)
             | _, _ => scan u)))
    ∧ (∀ (a : Actuator) (o : Settled) (id : Nat) (ids : List Nat) (s : State),
        settleList a o [] s = s
          ∧ settleList a o (id :: ids) s = settleList a o ids (testCompletion id (s.withGroups { s.groups with
              entries := s.groups.entries.map fun g => if g.id = id then g.settle a o else g })))
    ∧ (∀ (op : Operation) (s : State),
        (s.groups.entries.length < 6 → runInternal op s = ((runGroup op s).1, (runGroup op s).2.2))
          ∧ (6 ≤ s.groups.entries.length → runInternal op s = ((submitMembers op none s).1, 0)))
    ∧ (∀ s : State,
        (∀ l : Latch, (s.stateIsTarget .lock (.lock l) = true ↔ (s.latches.get l).state = .locked)
            ∧ (s.stateIsTarget .unlock (.lock l) = true ↔ (s.latches.get l).state = .unlocked)
            ∧ (s.stateIsTarget .deadlock (.lock l) = true ↔ (s.latches.get l).state = .deadlocked))
          ∧ (∀ c : Side, (s.stateIsTarget .engage (.child c) = true ↔ (s.child.recs.get c).state = .engaged)
            ∧ (s.stateIsTarget .disengage (.child c) = true ↔ (s.child.recs.get c).state = .disengaged)))

/-- CENTRAL_BUTTON unlocks all under the CRASH latch or when every side door counts as locked, one with a running LOCK
drive not counting, and locks all otherwise, at class 3. A first turn of the key cylinder unlocks the driver's door or
locks all and arms the record for 3 s; a second one the same way unlocks all or deadlocks; a refused turn empties the
record, and one answered OVERRULED keeps it (the model's choice, log 27); any other change of its inputs moves the pin
alone. -/
def Obligations.CentralAndKeyPressed : Prop :=
  (∀ (dt : Time) (s : State), Awake s → ∃ act : Action,
      (act = .unlockAll ↔ s.crash.latched = true ∨ ∀ l ∈ Latch.sides, (s.latches.get l).state ≠ .unlocked
          ∧ ∀ d, s.drive? (.lock l) = some d → d.dir ≠ .lock)
        ∧ (act = .unlockAll ∨ act = .lockAll)
        ∧ exec (.centralButtonPress dt true) s = .next (refreshPark (lockOperation
            { source := .centralButton, port := none, cls := .occupant, action := act, members := Latch.list.map .lock
              pattern := some (if act = .unlockAll then 1 else 0) } false (advance dt s)).1))
    ∧ (∀ (dt : Time) (s : State), Awake s →
        exec (.centralButtonPress dt false) s = .next (refreshPark (advance dt s)))
    ∧ (∀ (dt : Time) (k : KeyDir) (s : State), Awake s → s.pins.keyLock = false → s.pins.keyUnlock = false →
        let armed : Bool := s.presses.key.any (·.armed == k)
        let op : Action × List Actuator × Fin 8 := match k, armed with
          | .lock, false => (.lockAll, Latch.list.map .lock, 0)
          | .lock, true => (.deadlockAll, Latch.sides.map .lock, 2)
          | .unlock, false => (.unlockDriver, [.lock s.driverLatch], 1)
          | .unlock, true => (.unlockAll, Latch.list.map .lock, 1)
        exec (.keyCylinderTurn dt k true) s = .next (refreshPark
          (let pins := match k with | .lock => { s.pins with keyLock := true } | .unlock => { s.pins with keyUnlock := true }
           let x := lockOperation { source := .keyCylinder, port := none, cls := .occupant, action := op.1
                                    members := op.2.1, pattern := some op.2.2 } false (advance dt (s.withPins pins))
           x.1.withPresses { x.1.presses with
             key := if armed || (!x.2.1.accepts && x.2.1 != .overruled) then none
                    else some { armed := k, due := s.now + dt + sec 3 } })))
      ∧ (∀ (dt : Time) (k : KeyDir) (active : Bool) (s : State), Awake s →
          (active = false ∨ s.pins.keyLock = true ∨ s.pins.keyUnlock = true) →
          exec (.keyCylinderTurn dt k active) s = .next (refreshPark (advance dt (s.withPins
            (match k with | .lock => { s.pins with keyLock := active } | .unlock => { s.pins with keyUnlock := active })))))

/-- The expiries of the press records and of the held press, which leaves the hold time as it stands (the model's
choice, log 43) and ends its comfort, and the expiry of auto-relock: LOCK_ALL at class 1 with no pattern, and nothing
under the CRASH latch. -/
def Obligations.RecordTimersExpire : Prop :=
  (∀ (r : KeyPress) (s : State), s.presses.key = some r →
      exec .keyPressTimerExpiry s = .next (refreshPark ((reach r.due s).withPresses { s.presses with key := none })))
    ∧ (∀ (r : FobPress) (s : State), s.presses.fob = some r →
        exec .fobPressTimerExpiry s = .next (refreshPark ((reach r.due s).withPresses { s.presses with fob := none })))
    ∧ (∀ (h : Held) (s : State), s.tracker.held = some h → h.comfort = false →
        exec .gapTimerExpiry s = .next (refreshPark ((reach h.gapDue s).withTracker { s.tracker with held := none, eligible := false })))
    ∧ (∀ (h : Held) (s : State), s.tracker.held = some h → h.comfort = true →
        exec .gapTimerExpiry s =
          .next (refreshPark
            ((endComfort (reach h.gapDue s)).withTracker { s.tracker with held := none, eligible := false })))
    ∧ (∀ (d : Time) (s : State), s.presses.relockDue = some d →
       exec .autoRelockExpiry s = .next (refreshPark
         (let u := (reach d s).withPresses { s.presses with relockDue := none }
          if s.crash.latched then u
          else (runInternal { source := .autoRelock, port := none, cls := .comfort, action := .lockAll
                              members := Latch.list.map .lock, pattern := none } u).1)))

/-- TAILGATE_RELEASE is refused MOVING while the effective speed is MOVING and otherwise submitted at the class of its
origin; the pulse ends with the driver OFF, in success or after an open load in a failure; the watch ends with NO_OPEN
and LOCK_FAULT. -/
def Obligations.TailgateReleased : Prop :=
  (∀ (dt : Time) (p : Port) (b : Byte) (s : State), Receiving s p → Admitted s p 2 → (b = 0 ∨ b = 1) →
      s.effSpeed = .moving →
      exec (.tailgateRelease dt p [b]) s = .next (answered p 0x23 (Reply.of .moving) (atOwner dt p s)))
    ∧ (∀ (dt : Time) (p : Port) (b : Byte) (s : State), Receiving s p → Admitted s p 2 → (b = 0 ∨ b = 1) →
        s.effSpeed = .standstill → exec (.tailgateRelease dt p [b]) s = .next
          (let x := submit { act := .release, dir := .release, cls := if b = 0 then .comfort else .occupant
                             source := .bodyPort, mode := none, group := none } (atOwner dt p s)
           answered p 0x23 (Reply.of (match x.2 with | .queued => .queued | .merged => .merged | .overruled => .overruled))
             x.1))
    ∧ (∀ (d : Time) (s : State), s.release.pulseDue = some d →
        exec (.releasePulseEnd false) s = .next (refreshPark (endReport .release true
          (((reach d s).withRelease { s.release with pulseDue := none }).setStage .release .off))))
      ∧ (∀ (d : Time) (s : State), s.release.pulseDue = some d →
          exec (.releasePulseEnd true) s = .next (refreshPark (endReport .release false (offer .lockFault
            (((reach d s).withRelease { pulseDue := none, watchDue := none, last := .openLoad }).setStage .release .off)))))
      ∧ (∀ (d : Time) (s : State), s.release.watchDue = some d →
          exec .releaseWatchExpiry s = .next (refreshPark (offer .lockFault
            ((reach d s).withRelease { s.release with watchDue := none, last := .noOpen }))))

/-! ### Child locks and rear inhibit -/

/-- Child drives: the energized period ends at 120 ms or at a stall with the driver OFF and SETTLING of 40 ms, which
ends in success, a retry or a failure. A failure records its fault, reports the end and lets the state follow the
position; a success clears fault and attempts and takes the state of the direction. A CHPOS change moves the position
alone within a drive; outside one the state follows with CHILD_CHANGED. A change of the state writes the side's copy
in the STATE row and evaluates its effective rear inhibit; the copies read 0 when the stored byte lies outside its
list. -/
def Obligations.ChildDrivesRun : Prop :=
  (∀ (c : Side) (o : Bool) (d : Time) (s : State), (s.child.recs.get c).driveDue = some d →
      exec (.childDriveTimeExpiry c o) s = .next (refreshPark (((reach d s).modChild c fun r =>
        { r with driveDue := none, settleDue := some (max s.now d + msec 40), openLoad := o }).setStage (.child c) .off)))
    ∧ (∀ (dt : Time) (c : Side) (o : Bool) (d : Dir) (s : State), s.sys.inReset = false →
        s.stages.get (.child c) = .drive d →
        exec (.stageStall dt (.child c) o) s = .next (refreshPark (((advance dt s).modChild c fun r =>
          { r with driveDue := none, settleDue := some (s.now + dt + msec 40), openLoad := o }).setStage (.child c) .off)))
    ∧ (∀ (c : Side) (d : Time) (dr : Drive) (s : State), (s.child.recs.get c).settleDue = some d →
        s.drive? (.child c) = some dr →
        exec (.childSettleEnd c) s = .next (refreshPark
          (let u := reach d s
           let r := s.child.recs.get c
           if r.openLoad then failChild c .openLoad u
           else if r.position = (if dr.dir = .engage then ChildPos.engaged else .disengaged) then succeedChild c dr.dir u
           else if r.attempts < r.retries then
             energizeChild c dr.dir (u.modChild c fun r => { r with attempts := r.attempts + 1 })
           else failChild c .noConfirm u)))
    ∧ (∀ (dt : Time) (c : Side) (v : ChildPos) (s : State), Awake s → (s.child.recs.get c).position ≠ v →
        (s.drive? (.child c)).isSome →
        exec (.chposChange dt c v) s = .next (refreshPark
          ((advance dt (s.withPins { s.pins with chpos := s.pins.chpos.set c v })).modChild c fun r =>
            { r with position := v })))
      ∧ (∀ (dt : Time) (c : Side) (v : ChildPos) (s : State), Awake s → (s.child.recs.get c).position ≠ v →
          (s.child.recs.get c).state ≠ v → s.drive? (.child c) = none →
          exec (.chposChange dt c v) s = .next (refreshPark (setChildState c v (offer .childChanged
            ((advance dt (s.withPins { s.pins with chpos := s.pins.chpos.set c v })).modChild c fun r =>
              { r with position := v })))))
    ∧ (∀ (c : Side) (f : DriveFault) (s : State), failChild c f s =
        (let u := endReport (.child c) false
           (s.modChild c fun r => { r with fault := f, driveDue := none, settleDue := none, openLoad := false })
         setChildState c (u.child.recs.get c).position u))
    ∧ (∀ (c : Side) (d : Dir) (s : State), succeedChild c d s = endReport (.child c) true (setChildState c
        (if d = .engage then .engaged else .disengaged)
        (s.modChild c fun r => { r with fault := .none, attempts := 0, settleDue := none })))
    ∧ (∀ (c : Side) (d : Dir) (s : State), energizeChild c d s = (s.modChild c fun r =>
        { r with driveDue := some (s.now + msec 120), settleDue := none, openLoad := false }).setStage (.child c) (.drive d))
    ∧ (∀ (c : Side) (v : ChildPos) (s : State),
        let bit (d : Side) : Nat := match d with | .left => 0 | .right => 1
        ((s.child.recs.get c).state = v → setChildState c v s = s)
          ∧ ((s.child.recs.get c).state ≠ v → ∃ b : Byte, setChildState c v s = evalInhibit c
              (writeStateByte 4 b (s.modChild c fun r => { r with state := v })) ∧ b.toNat ≤ 3
            ∧ ∀ d, b.getLsbD (bit d) = if d = c then v == .engaged else s.childCopies.getLsbD (bit d)))
    ∧ (∀ s : State, s.childCopies = if (s.row 4)[4].toNat ≤ 3 then (s.row 4)[4] else 0)

/-- CHILD_LOCK and CHILD_BUTTON: refused under the CRASH latch and with a full table, group id 0 answered, otherwise
carried out as a class-3 group with pattern 6 or 7. The side byte names L, R or both. A toggle disengages when every
side it names is intended ENGAGED and engages otherwise; the intended state is that of the queued entry, else of the
running drive, else the state field. -/
def Obligations.ChildLocksRequested : Prop :=
  (∀ (dt : Time) (p : Port) (side action : Byte) (cs : List Side) (act : Action) (s : State), Receiving s p →
      Admitted s p 2 → sidesOf side = some cs →
      (action = 0 ∧ act = .childEngage ∨ action = 1 ∧ act = .childDisengage ∨ action = 2 ∧ act = s.toggle cs) →
      exec (.childLock dt p [side, action]) s = .next
        (if s.crash.latched then answered p 0x21 { result := .crashActive, payload := [0] } (atOwner dt p s)
         else if s.groups.entries.length < 6 then
           let x := runGroup { source := .bodyPort, port := some p, cls := .occupant, action := act
                               members := cs.map .child, pattern := if act = .childEngage then some 6 else some 7 }
             (atOwner dt p s)
           answered p 0x21 { result := x.2.1, payload := [byteOf x.2.2] } x.1
         else answered p 0x21 { result := .busy, payload := [0] } (atOwner dt p s)))
    ∧ (∀ (dt : Time) (p : Port) (payload : List Byte) (s : State), Receiving s p → Admitted s p 2 → payload.length ≤ 14 →
        (∀ a b, payload = [a, b] → 2 < a.toNat ∨ 2 < b.toNat) →
        exec (.childLock dt p payload) s =
          .next (answered p 0x21 { result := .badArgument, payload := [0] } (atOwner dt p s)))
    ∧ (∀ (dt : Time) (s : State), Awake s → exec (.childButtonPress dt true) s = .next (refreshPark
        (if s.crash.latched = false ∧ s.groups.entries.length < 6 then
          (runGroup { source := .childButton, port := none, cls := .occupant, action := s.toggle Side.list
                      members := Side.list.map .child
                      pattern := if s.toggle Side.list = .childEngage then some 6 else some 7 } (advance dt s)).1
         else advance dt s)))
    ∧ (∀ (dt : Time) (s : State), Awake s →
        exec (.childButtonPress dt false) s = .next (refreshPark (advance dt s)))
    ∧ (sidesOf 0 = some [.left] ∧ sidesOf 1 = some [.right] ∧ sidesOf 2 = some [.left, .right]
        ∧ ∀ b : Byte, 2 < b.toNat → sidesOf b = none)
    ∧ (∀ (cs : List Side) (s : State),
        ((∀ c ∈ cs, s.intended c = .engaged) → s.toggle cs = .childDisengage)
          ∧ ((∃ c ∈ cs, s.intended c = .disengaged) → s.toggle cs = .childEngage))
    ∧ (∀ (c : Side) (s : State),
        (∀ e, s.entry? (.child c) = some e → s.intended c = if e.dir = .engage then .engaged else .disengaged)
          ∧ (∀ d, s.entry? (.child c) = none → s.drive? (.child c) = some d →
            s.intended c = if d.dir = .engage then .engaged else .disengaged)
          ∧ (s.entry? (.child c) = none → s.drive? (.child c) = none → s.intended c = (s.child.recs.get c).state))

/-- The global rear inhibit flag: WINDOW_LOCK_BUTTON toggles it, REAR_INHIBIT sets it; a change captures
CHILD_CHANGED, is written and evaluates both sides, L first (the model's order, log 39); a repeated value, or the
release of the button, changes nothing. A side is ACTIVE with the global flag, or with the link flag and its child
lock ENGAGED; a change to ACTIVE stops the movement of its local switch, with cause RELEASED when it is MANUAL and
STOP_REQUEST otherwise; a change to INACTIVE sets the local channel waiting unless it reads NEUTRAL. -/
def Obligations.RearInhibitSet : Prop :=
  (∀ (dt : Time) (s : State), Awake s →
      exec (.windowLockButtonPress dt true) s = .next (refreshPark (evalInhibits (writeStateByte 2
        (boolByte !s.child.rearInhibit) (offer .childChanged
          ((advance dt s).withChild { s.child with rearInhibit := !s.child.rearInhibit }))))))
    ∧ (∀ (dt : Time) (p : Port) (v : Bool) (s : State), Receiving s p → Admitted s p 2 → s.child.rearInhibit ≠ v →
        exec (.rearInhibit dt p [boolByte v]) s = .next (answered p 0x22 (Reply.of .ok) (evalInhibits (writeStateByte 2
          (boolByte v) (offer .childChanged ((atOwner dt p s).withChild { s.child with rearInhibit := v }))))))
    ∧ (∀ (dt : Time) (p : Port) (v : Bool) (s : State), Receiving s p → Admitted s p 2 → s.child.rearInhibit = v →
        exec (.rearInhibit dt p [boolByte v]) s = .next (answered p 0x22 (Reply.of .ok) (atOwner dt p s)))
    ∧ (∀ (dt : Time) (s : State), Awake s →
        exec (.windowLockButtonPress dt false) s = .next (refreshPark (advance dt s)))
    ∧ (∀ s : State, evalInhibits s = evalInhibit .right (evalInhibit .left s))
    ∧ (∀ (c : Side) (s : State),
        let v : Bool := s.child.rearInhibit || (s.cfg.childLink && (s.child.recs.get c).state == .engaged)
        (s.child.effective.get c = v → evalInhibit c s = s)
          ∧ (s.child.effective.get c ≠ v → evalInhibit c s =
            takeInhibit c v (s.withChild { s.child with effective := s.child.effective.set c v })))
    ∧ (∀ (c : Side) (s : State),
        let w : Win := match c with | .left => .w3 | .right => .w4
        let x : Chan := match c with | .left => .localRL | .right => .localRR
        let r := s.windows.get w
        (r.source ≠ some .switchLocal → takeInhibit c true s = s)
          ∧ (r.source = some .switchLocal → r.mode = some .manual →
            takeInhibit c true s = (applyStop w .access .released s).1)
          ∧ (r.source = some .switchLocal → r.mode ≠ some .manual →
            takeInhibit c true s = (applyStop w .access .stopRequest s).1)
          ∧ ((s.chans.get x).position ≠ .neutral →
            takeInhibit c false s = s.modChan x fun r => { r with waiting := true })
          ∧ ((s.chans.get x).position = .neutral → takeInhibit c false s = s))

/-! ### Windows and pinch protection -/

/-- A Hall edge moves the position by one step within 0 and the lower limit, and feeds an active relative reversal
record; in DRIVE it is counted, a wrong-direction count kept, and handed to the pinch computer, and the run goes on,
is reversed by a PINCH, or ends, either of the two first when both fall on one edge (log 10); in PARK the Hall inputs
are not watched. The eighth wrong-direction pulse is a Hall fault, tested before the rest; a reversal ends at its
distance; a LEARNED run ends with TARGET at its target, upwards at or above it and downwards at or below it, and with
BOTTOM at Pmax − 8; a target above Pmax − 8 never ends the run, and at a target up to there TARGET goes before BOTTOM
(the model's choice, log 26). -/
def Obligations.HallEdgesTaken : Prop :=
  (∀ (dt : Time) (w : Win) (e : HallSense) (s : State), Awake s → (∀ d, s.stages.get (.window w) ≠ .drive d) →
      exec (.hallEdge dt w e) s = .next (refreshPark (passPulse w e ((advance dt s).modWindow w fun r =>
        { r with p := match e with
                   | .closing => r.p - 1
                   | .opening => min (r.p + 1) (if r.norm = .learned then r.pmax.getD 2047 else 2047) }))))
    ∧ (∀ (dt : Time) (w : Win) (e : HallSense) (s : State), s.sys.inReset = false → s.sys.mode = .park →
        exec (.hallEdge dt w e) s = .next (refreshPark (advance dt s)))
    ∧ (∀ (dt : Time) (w : Win) (e : HallSense) (d : Dir) (s : State), Awake s → s.stages.get (.window w) = .drive d →
        let r := s.windows.get w
        let p := r.countEdge e
        let u := handEdge w e (p != r.p) (((passPulse w e ((advance dt s).modWindow w fun r => { r with p := p })).modWindow w
          fun r => { r with edges := r.edges + 1, lastEdge := s.now + dt
                            wrong := if (d = .up ∧ e = .closing) ∨ (d ≠ .up ∧ e = .opening) then 0 else r.wrong + 1 }))
        (u.pinchConfirmed w = false → u.edgeStop w d e = none → exec (.hallEdge dt w e) s = .next (refreshPark u))
          ∧ (u.pinchConfirmed w = true → u.edgeStop w d e = none →
            exec (.hallEdge dt w e) s = .next (refreshPark (takePinch w u)))
          ∧ (∀ c, u.pinchConfirmed w = false → u.edgeStop w d e = some c →
            exec (.hallEdge dt w e) s = .next (refreshPark (stopRun w c u)))
          ∧ (∀ c, u.pinchConfirmed w = true → u.edgeStop w d e = some c →
            ∃ v, v = u.withTies (u.ties + 1) ∧ (exec (.hallEdge dt w e) s = .next (refreshPark (takePinch w v))
              ∨ exec (.hallEdge dt w e) s = .next (refreshPark (stopRun w c v)))))
    ∧ (∀ (w : Win) (d : Dir) (e : HallSense) (s : State),
        let r := s.windows.get w
        let pm := r.pmax.getD 2047
        let soft := if pm ≤ r.p + 8 then some StopCause.bottom else none
        (8 ≤ r.wrong → s.edgeStop w d e = some .hallFault)
          ∧ (r.wrong < 8 → (s.pinch.get w).rev.active = true →
            s.edgeStop w d e = if s.reversalEnd w e = true then some .pinch else none)
          ∧ (r.wrong < 8 → (s.pinch.get w).rev.active = false →
            (r.norm ≠ .learned → s.edgeStop w d e = none)
              ∧ (∀ t, r.norm = .learned → d = .up → r.mode = some (.target t) →
                s.edgeStop w d e = if r.p ≤ t then some .target else none)
              ∧ (r.norm = .learned → d = .up → (∀ t, r.mode ≠ some (.target t)) → s.edgeStop w d e = none)
              ∧ (∀ t, r.norm = .learned → d ≠ .up → r.mode = some (.target t) →
                (t + 8 ≤ pm → t ≤ r.p → s.edgeStop w d e = some .target)
                  ∧ (pm < t + 8 ∨ r.p < t → s.edgeStop w d e = soft))
              ∧ (r.norm = .learned → d ≠ .up → (∀ t, r.mode ≠ some (.target t)) → s.edgeStop w d e = soft)))

/-- The run computation at a Hall edge of an UP run: the compensated period is floor(T × clamp(V_f, 9000, 16000) /
13500), saturated; S becomes floor((3 × S + Tn + 2) / 4), or Tn at the first pulse; n counts and edge time moves. The
threshold is max(80, floor(R × k / 256)), doubled while restricted. S_start is S at n = 24; from n = 25, and for a true
height between the seal and the upper bound, an excess of S above reference plus threshold counts and any other pulse clears
the count, and Nconf of them are a PINCH. The reference is the zone's Ref entry where it has one and S_start otherwise.
Zones gather up to 64 pulses (log 35); an opening pulse ends eligibility; at a TOP stop an eligible run within the learning
supply of a LEARNED window replaces the entries of its complete zones and queues each row with a changed entry. -/
def Obligations.PeriodMeasured : Prop :=
  (∀ (w : Win) (e : HallSense) (m : Bool) (s : State) (r : RunRec) (v : Nat), (s.pinch.get w).run = some r →
     s.supply.vf = some v →
     ∃ r', ((handEdge w e m s).pinch.get w).run = some r'
       ∧ r'.n = min 65535 (r.n + 1) ∧ r'.edgeTime = s.now
       ∧ (let tn := min 65535 (min 65535 (s.now - r.edgeTime) * max 9000 (min v 16000) / 13500)
          (∀ x, r.s = some x → r'.s = some ((3 * x + tn + 2) / 4)) ∧ (r.s = none → r'.s = some tn)))
    ∧ (∀ (r : RunRec) (ref : Nat),
       (r.restricted = false → r.threshold ref = max 80 (ref * r.k / 256))
         ∧ (r.restricted = true → r.threshold ref = 2 * max 80 (ref * r.k / 256))
         ∧ (r.k ≤ 77 → ref ≤ 65535 → 80 ≤ r.threshold ref ∧ r.threshold ref ≤ 39422))
    ∧ (∀ (w : Win) (e : HallSense) (m : Bool) (s : State) (r r' : RunRec) (v : Nat), (s.pinch.get w).run = some r →
        s.supply.vf = some v → ((handEdge w e m s).pinch.get w).run = some r' →
        let p := (s.windows.get w).p
        let z := Fin.ofNat 32 (min 31 (p / 64))
        let tn := min 65535 (min 65535 (s.now - r.edgeTime) * max 9000 (min v 16000) / 13500)
        let ref := if r.absolute = true ∧ (s.profiles.get w)[z] ≠ 0 then (s.profiles.get w)[z] else r'.sStart.getD 0
        let tested := 25 ≤ r'.n ∧ (r.absolute = true → r.pseal < p ∧ p ≤ r.pdetect)
        (r'.sStart = if r'.n = 24 then r'.s else r.sStart)
          ∧ (tested → ref + r.threshold ref < r'.s.getD 0 → r'.count = r.count + 1)
          ∧ (¬ (tested ∧ ref + r.threshold ref < r'.s.getD 0) → r'.count = 0)
          ∧ r'.learn = (r.learn && e != .opening)
          ∧ (25 ≤ r'.n → m = true → r.zones[z].2 < 64 →
              r'.zones = r.zones.set z (r.zones[z].1 + tn, r.zones[z].2 + 1))
          ∧ (r'.n < 25 ∨ m = false ∨ 64 ≤ r.zones[z].2 → r'.zones = r.zones)
          ∧ r'.k = r.k ∧ r'.nconf = r.nconf ∧ r'.pseal = r.pseal ∧ r'.pdetect = r.pdetect ∧ r'.dist = r.dist
          ∧ r'.absolute = r.absolute ∧ r'.restricted = r.restricted ∧ r'.inRange = r.inRange
          ∧ ((handEdge w e m s).pinchConfirmed w = true ↔ 0 < r'.count ∧ r.nconf ≤ r'.count))
    ∧ (∀ (w : Win) (s : State), ∃ r, ((startRun w .up s).pinch.get w).run = some r ∧ r.n = 0 ∧ r.s = none ∧ r.sStart = none
        ∧ r.count = 0 ∧ r.pseal = s.cfg.pseal ∧ r.pdetect = s.cfg.pdetect ∧ r.k = s.cfg.kFactor ∧ r.nconf = s.cfg.nconf
        ∧ r.dist = s.cfg.reversalDistance ∧ r.absolute = ((s.windows.get w).norm == .learned)
        ∧ r.restricted = (s.windows.get w).restricted ∧ r.zones = Vector.replicate 32 (0, 0) ∧ r.edgeTime = s.now
        ∧ r.learn = ((s.windows.get w).norm == .learned && !(s.windows.get w).restricted)
        ∧ (r.inRange = true ↔ ∃ v, s.supply.vf = some v ∧ 10500 ≤ v ∧ v ≤ 15500))
    ∧ (∀ (w : Win) (s : State),
        (∀ r, (s.pinch.get w).run = some r → r.learn = true → r.inRange = true → (s.windows.get w).norm = .learned →
            learnAtTop w s = updateProfile w (r.learned (s.profiles.get w)) s)
          ∧ (∀ r, (s.pinch.get w).run = some r →
            (r.learn = false ∨ r.inRange = false ∨ (s.windows.get w).norm ≠ .learned) → learnAtTop w s = s))
    ∧ (∀ (r : RunRec) (t : Vector Nat 32) (z : Fin 32),
        let a := max 200 (min (r.zones[z].1 / 64) 20000)
        (r.zones[z].2 ≠ 64 → (r.learned t)[z] = t[z])
          ∧ (r.zones[z].2 = 64 → t[z] = 0 → (r.learned t)[z] = a)
          ∧ (r.zones[z].2 = 64 → t[z] ≠ 0 → (max a t[z] - min a t[z] ≤ t[z] / 4) →
            (r.learned t)[z] = (7 * t[z] + a + 4) / 8)
          ∧ (r.zones[z].2 = 64 → t[z] ≠ 0 → t[z] / 4 < max a t[z] - min a t[z] → (r.learned t)[z] = t[z]))
    ∧ (∀ (w : Win) (t : Vector Nat 32) (s : State),
        (updateProfile w t s).profiles.get w = t
          ∧ ∀ r, r < 6 → s.store.shadows[w.row r].isVolatile = false →
            (∃ z, (refSpan r).1 ≤ z ∧ z < (refSpan r).1 + (refSpan r).2 ∧
              be16 ((s.profiles.get w)[Fin.ofNat 32 z]) ≠ be16 (t[Fin.ofNat 32 z])) →
            w.row r ∈ (updateProfile w t s).store.queue)

/-- A PINCH of a window that is not restricted starts a reversal: last pinch position, one reversal more, restricted at the
third, the reversal record with its captured distance, the end of the UP run and of comfort, PINCH_REVERSAL, and a brake
towards DOWN in REVERSING; a restricted window stops with cause PINCH. A relative record counts the pulses of its direction;
its down run ends at the distance, an absolute one at its end position. The stop of a reversal records COMPLETE for PINCH and
BOTTOM and INTERRUPTED with any other cause; it, and every stop with cause PINCH, holds the window's channels that read other
than NEUTRAL. -/
def Obligations.ReversalsRecorded : Prop :=
  (∀ (w : Win) (r : RunRec) (s : State), s.sys.mode = .run → (s.pinch.get w).run = some r → r.restricted = false →
      s.stages.get (.window w) = .drive .up →
      let t := takePinch w s
      let x := s.windows.get w
      (t.windows.get w).run = .reversing ∧ (t.windows.get w).nextDir = some .down
        ∧ (t.windows.get w).normPhase = .none ∧ (t.windows.get w).lastPinch = some x.p
        ∧ (t.windows.get w).reversals = min 3 (x.reversals + 1)
        ∧ ((t.windows.get w).restricted = true ↔ x.restricted = true ∨ 2 ≤ x.reversals)
        ∧ (t.windows.get w).brakeDue = some (s.now + msec 40) ∧ (t.windows.get w).runDue = none
        ∧ t.stages = s.stages.set (.window w) .brake ∧ t.comfort.get w = false
        ∧ (t.pinch.get w).run = none
        ∧ (t.pinch.get w).rev =
            { active := true, origin := x.p, dist := r.dist, absolute := r.absolute
              endPos := if r.absolute then min (x.p + r.dist) (x.pmax.getD 2047) else 0
              rel := 0, outcome := .none, cause := .none }
        ∧ (∀ p : Port, (t.events.get p).captured =
            (s.events.get p).captured ||| (Ev.pinchReversal.bit &&& (s.events.get p).mask))
        ∧ (∀ d ∈ s.arb.running, d.act = .window w → ∃ e ∈ t.arb.running, e.act = .window w ∧ e.dir = .down)
        ∧ (∀ v, v ≠ w → t.windows.get v = s.windows.get v ∧ t.pinch.get v = s.pinch.get v))
    ∧ (∀ (w : Win) (r : RunRec) (s : State), (s.pinch.get w).run = some r → r.restricted = true →
        takePinch w s = stopRun w .pinch (s.modWindow w fun x => { x with lastPinch := some x.p }))
    ∧ (∀ (w : Win) (c : StopCause) (s : State), c ≠ .top → s.stages.get (.window w) ≠ .brake → ∃ t, stopRun w c s = t
        ∧ (t.windows.get w).pending = some c ∧ (t.windows.get w).brakeDue = some (s.now + msec 40)
        ∧ (t.windows.get w).runDue = none ∧ t.stages = s.stages.set (.window w) .brake
        ∧ ((s.windows.get w).run ≠ .reversing → (t.windows.get w).run = .brake)
        ∧ ((s.windows.get w).run = .reversing → (t.windows.get w).run = .reversing)
        ∧ (t.pinch.get w).run = none ∧ (t.pinch.get w).rev = (s.pinch.get w).rev ∧ t.events = s.events)
    ∧ (∀ (w : Win) (e : HallSense) (s : State), ∃ t, passPulse w e s = t
        ∧ ((s.pinch.get w).rev.active = true → (s.pinch.get w).rev.absolute = false →
            (t.pinch.get w).rev = { (s.pinch.get w).rev with
              rel := (s.pinch.get w).rev.rel + (if e = .opening then 1 else -1) })
        ∧ ((s.pinch.get w).rev.active = false ∨ (s.pinch.get w).rev.absolute = true → t = s))
    ∧ (∀ (w : Win) (e : HallSense) (s : State),
        ((s.pinch.get w).rev.absolute = true →
            (s.reversalEnd w e = true ↔ e = .opening ∧ (s.pinch.get w).rev.endPos ≤ (s.windows.get w).p))
          ∧ ((s.pinch.get w).rev.absolute = false →
            (s.reversalEnd w e = true ↔ ((s.pinch.get w).rev.dist : Int) ≤ (s.pinch.get w).rev.rel)))
    ∧ (∀ (w : Win) (d : Dir) (e : HallSense) (s : State), (s.pinch.get w).rev.active = true →
        (s.windows.get w).wrong < 8 → s.edgeStop w d e = if s.reversalEnd w e = true then some .pinch else none)
    ∧ (∀ (w : Win) (c : StopCause) (s : State),
        let t := settleStopped w c s
        let v := (s.pinch.get w).rev
        (v.active = true → (c = .pinch ∨ c = .bottom) →
            (t.pinch.get w).rev = { v with active := false, outcome := .complete, cause := .none })
          ∧ (v.active = true → c ≠ .pinch → c ≠ .bottom →
            (t.pinch.get w).rev = { v with active := false, outcome := .interrupted, cause := c })
          ∧ (v.active = false → t.pinch = s.pinch)
          ∧ (v.active = true ∨ c = .pinch → ∀ x : Chan, t.chans.get x =
            if chanWin x = w ∧ (s.chans.get x).position ≠ .neutral then
              { s.chans.get x with waiting := true } else s.chans.get x)
          ∧ (v.active = false → c ≠ .pinch → t.chans = s.chans)
          ∧ (t.windows.get w).lastStop = c)

/-- The 150 ms test with no edge counted is a stall or a Hall fault, and with one it only disarms; the run timer stops
the run with TIMEOUT; a stall, found 80 ms after the entry into DRIVE or 30 ms after the last edge, whichever is later
(the model's choice, log 34), is classified. UP: the top in NORM_UP; TOP with the position lost or within 24 steps of
the seal distance; a PINCH where the stall test holds; BLOCKED otherwise. DOWN: the bottom in NORM_DOWN; BLOCKED more
than 20 steps short of Pmax; BOTTOM otherwise. TOP sets p to 0, reversals to 0 and restricted to no, makes a lost
position LEARNED with NORMALIZATION_CHANGED, and stops the run. The top found sets p to 0 and turns the run to
NORM_DOWN through a brake. The bottom found takes p as Pmax when it lies within 600..2047, clears Ref, makes the
window LEARNED and queues its six rows; otherwise the stop leads to NORM_FAILED. A stop brakes for 40 ms with its
cause pending, ends the run timer, the 150 ms test, the run computation and, but for a Hall fault, the normalizing
phase (log 16); a TOP stop learns first. -/
def Obligations.RunTestsTaken : Prop :=
  (∀ (w : Win) (s : State), (s.windows.get w).noPulseArmed = true → (s.windows.get w).edges = 0 →
      let u := (reach ((s.windows.get w).driveFrom + msec 150) s).modWindow w fun r => { r with noPulseArmed := false }
      exec (.noPulseTest w false) s = .next (refreshPark (stopRun w .hallFault u))
        ∧ exec (.noPulseTest w true) s = .next (refreshPark (takeStall w u)))
    ∧ (∀ (w : Win) (b : Bool) (s : State), (s.windows.get w).noPulseArmed = true → 0 < (s.windows.get w).edges →
        exec (.noPulseTest w b) s = .next (refreshPark
          ((reach ((s.windows.get w).driveFrom + msec 150) s).modWindow w fun r => { r with noPulseArmed := false })))
    ∧ (∀ (w : Win) (d : Dir) (s : State), s.stages.get (.window w) = .drive d → 0 < (s.windows.get w).edges →
        exec (.windowStall w) s = .next (refreshPark (takeStall w (reach
          (max ((s.windows.get w).driveFrom + msec 80) ((s.windows.get w).lastEdge + msec 30)) s))))
    ∧ (∀ (w : Win) (d : Time) (s : State), (s.windows.get w).runDue = some d →
        exec (.runTimeout w) s = .next (refreshPark (stopRun w .timeout (reach d s))))
    ∧ (∀ (w : Win) (s : State),
       let r := s.windows.get w
       (s.stages.get (.window w) = .drive .up → takeStall w s =
           if r.normPhase = .normUp then topFound w s
           else if r.norm = .positionLost ∨ (r.norm = .learned ∧ r.p ≤ r.sealDist + 24) then reachTop w s
           else if (s.pinch.get w).run.any (fun x => !x.absolute || r.p ≤ x.pdetect) then takePinch w s
           else stopRun w .blocked s)
         ∧ (s.stages.get (.window w) = .drive .down → takeStall w s =
           if r.normPhase = .normDown then bottomFound w s
           else if r.norm = .learned ∧ r.p + 20 < r.pmax.getD 2047 then stopRun w .blocked s
           else stopRun w .bottom s))
    ∧ (∀ (w : Win) (s : State),
        let u := s.modWindow w fun r => { r with p := 0, reversals := 0, restricted := false }
        ((s.windows.get w).norm ≠ .positionLost → reachTop w s = stopRun w .top u)
          ∧ ((s.windows.get w).norm = .positionLost → reachTop w s =
            stopRun w .top (offer .normalizationChanged (u.modWindow w fun r => { r with norm := .learned }))))
    ∧ (∀ (w : Win) (s : State), s.stages.get (.window w) ≠ .brake → (s.windows.get w).run ≠ .reversing →
        let t := topFound w s
        let r := s.windows.get w
        t.windows.get w = { r with p := 0, normPhase := .normDown, run := .brake, nextDir := some .down, runDue := none
                                   noPulseArmed := false, brakeDue := some (s.now + msec 40) }
          ∧ t.stages = s.stages.set (.window w) .brake ∧ (t.pinch.get w).run = none ∧ t.events = s.events
          ∧ t.arb = { s.arb with running := s.arb.running.map fun x =>
              if x.act = Actuator.window w then { x with dir := .down, mode := r.mode, source := r.source.getD x.source }
              else x })
    ∧ (∀ (w : Win) (s : State),
        let p := (s.windows.get w).p
        (600 ≤ p → p ≤ 2047 → ∃ u, bottomFound w s = stopRun w .bottom u
            ∧ u.windows.get w = { s.windows.get w with pmax := some p, norm := .learned }
            ∧ u.profiles.get w = Vector.replicate 32 0 ∧ u.stages = s.stages ∧ u.pinch = s.pinch ∧ u.arb = s.arb
            ∧ (∀ r, r < 6 → u.row (w.row r) = padBytes 13 (if r = 0 then be16 p ++ [1] else [])
              ∧ (s.store.shadows[w.row r].isVolatile = false → w.row r ∈ u.store.queue))
            ∧ (s.sys.mode = .run → (s.windows.get w).norm ≠ .learned → ∀ q : Port, (u.events.get q).captured =
              (s.events.get q).captured ||| (Ev.normalizationChanged.bit &&& (s.events.get q).mask)))
          ∧ (p < 600 ∨ 2047 < p → bottomFound w s =
            (stopRun w .bottom s).modWindow w fun r => { r with pendingFault := .normFailed }))
    ∧ (∀ (w : Win) (c : StopCause) (s : State), s.stages.get (.window w) ≠ .brake →
        let u := if c = .top then learnAtTop w s else s
        let r := u.windows.get w
        let t := stopRun w c s
        t.windows.get w = { r with run := if r.run = .reversing then .reversing else .brake, pending := some c
                                   runDue := none, noPulseArmed := false, brakeDue := some (s.now + msec 40)
                                   normPhase := if c = .hallFault then r.normPhase else .none
                                   pendingFault := if c = .hallFault then .hallFault else r.pendingFault }
          ∧ t.stages = s.stages.set (.window w) .brake ∧ (t.pinch.get w).run = none ∧ t.profiles = u.profiles
          ∧ t.store = u.store ∧ t.events = u.events ∧ t.arb = s.arb)

/-- The end of a window's brake: a direction change starts the run the other way; a stop turns the bridge OFF and
records its cause, in FAULTED where a fault is pending, and ends the drive or the brake hold. A window that stops
without a waiting entry is STOPPED with no movement, one with a waiting entry is QUEUED and keeps its movement, and
WINDOW_STOPPED is captured; a stop with cause PINCH holds the channels. A drive not under a hold ends by the end
report, FAULT for a FAULTED window and SUCCESS otherwise, and a scan. One that stops FAULTED holds the fault and the
cause, has no movement, phase or timer, captures WINDOW_STOPPED and WINDOW_FAULT, and after a Hall fault is UNLEARNED,
with NORMALIZATION_CHANGED and its first row queued when it was not before (at the end of the brake: the model's
reading, log 16); an entry submitted during a brake hold is withdrawn (the model's choice, log 14). A reversal ends
with its outcome, and its window's channels that read other than NEUTRAL wait. -/
def Obligations.WindowBrakeEnds : Prop :=
  (∀ (w : Win) (d : Time) (x : WDir) (s : State), (s.windows.get w).brakeDue = some d →
      (s.windows.get w).nextDir = some x →
      exec (.windowBrakeEnd w) s = .next (refreshPark (startRun w x (reach d s))))
    ∧ (∀ (w : Win) (d : Time) (c : StopCause) (s : State), (s.windows.get w).brakeDue = some d →
        (s.windows.get w).nextDir = none → (s.windows.get w).pending = some c →
        (s.windows.get w).pendingFault = .none →
        exec (.windowBrakeEnd w) s = .next (refreshPark (endWindowDrive w
          (settleStopped w c ((reach d s).setStage (.window w) .off)))))
    ∧ (∀ (w : Win) (d : Time) (c : StopCause) (f : WFault) (s : State), (s.windows.get w).brakeDue = some d →
        (s.windows.get w).nextDir = none → (s.windows.get w).pending = some c →
        (s.windows.get w).pendingFault = f → f ≠ .none →
        exec (.windowBrakeEnd w) s = .next (refreshPark (endWindowDrive w
          (settleFaulted w c f ((reach d s).setStage (.window w) .off)))))
    ∧ (∀ (w : Win) (c : StopCause) (s : State), s.entry? (.window w) = none → (s.pinch.get w).rev.active = false →
       s.sys.mode = .run → ∃ t, settleStopped w c s = t
         ∧ (t.windows.get w).run = .stopped ∧ (t.windows.get w).lastStop = c ∧ (t.windows.get w).mode = none
         ∧ (t.windows.get w).source = none ∧ t.comfort.get w = false
         ∧ (∀ q : Port, (t.events.get q).captured = (s.events.get q).captured ||| (Ev.windowStopped.bit &&& (s.events.get q).mask))
         ∧ ∀ v, v ≠ w → t.windows.get v = s.windows.get v)
    ∧ (∀ (w : Win) (c : StopCause) (f : WFault) (s : State), s.entry? (.window w) = none →
        (s.pinch.get w).rev.active = false → s.sys.mode = .run → ∃ t n e, settleFaulted w c f s = t
          ∧ t.windows.get w = { s.windows.get w with
              run := .faulted, fault := f, lastStop := c, nextDir := none, pending := none, pendingFault := .none
              normPhase := .none, runDue := none, brakeDue := none, noPulseArmed := false, mode := none, source := none
              cls := none, norm := n }
          ∧ (f = .hallFault → n = .unlearned) ∧ (f ≠ .hallFault → n = (s.windows.get w).norm ∧ t.store = s.store)
          ∧ (f = .hallFault → (s.windows.get w).norm ≠ .unlearned →
            s.store.shadows[w.row 0].isVolatile = false → w.row 0 ∈ t.store.queue)
          ∧ e = (if f = .hallFault ∧ (s.windows.get w).norm ≠ .unlearned then Ev.normalizationChanged.bit else 0#32)
          ∧ (∀ q : Port, (t.events.get q).captured = (s.events.get q).captured
            ||| ((e ||| Ev.windowStopped.bit ||| Ev.windowFault.bit) &&& (s.events.get q).mask))
          ∧ t.comfort.get w = false ∧ (∀ v, v ≠ w → t.windows.get v = s.windows.get v) ∧ t.arb = s.arb)
    ∧ (∀ (w : Win) (c : StopCause) (f : WFault) (s : State), settleFaulted w c f s =
        (let u := s.modWindow w fun r =>
           { r with run := .faulted, fault := f, lastStop := c, nextDir := none, pending := none, pendingFault := .none
                    normPhase := .none, runDue := none, brakeDue := none, noPulseArmed := false }
         let v := offer .windowFault (offer .windowStopped (if f = .hallFault then unlearn w u else u))
         let x := if s.entry? (.window w) = none then v
                  else scan (v.withArb { v.arb with
                    queue := v.arb.queue.filter (·.act != .window w)
                    seq := if (v.arb.queue.filter (·.act != .window w)).isEmpty then 0 else v.arb.seq })
         finishReversal w c ((x.modWindow w fun r => { r with mode := none, source := none, cls := none }).withComfort
           (x.comfort.set w false))))
    ∧ (∀ (w : Win) (c : StopCause) (s : State),
        let v := (s.pinch.get w).rev
        let t := finishReversal w c s
        (v.active = false → t = s)
          ∧ (v.active = true →
            ((c = .pinch ∨ c = .bottom) →
                (t.pinch.get w).rev = { v with active := false, outcome := .complete, cause := .none })
              ∧ (c ≠ .pinch → c ≠ .bottom →
                (t.pinch.get w).rev = { v with active := false, outcome := .interrupted, cause := c })
              ∧ (∀ x : Chan, t.chans.get x = if chanWin x = w ∧ (s.chans.get x).position ≠ .neutral then
                  { s.chans.get x with waiting := true } else s.chans.get x)
              ∧ t.windows = s.windows ∧ t.events = s.events ∧ t.store = s.store))
    ∧ (∀ (w : Win) (c : StopCause) (s : State), s.sys.mode = .run → ∃ x, settleStopped w c s = finishReversal w c x
        ∧ (s.entry? (.window w) = none → x.comfort = s.comfort.set w false ∧ x.windows.get w = { s.windows.get w with
            run := .stopped, lastStop := c, nextDir := none, pending := none, brakeDue := none
            mode := none, source := none, cls := none })
        ∧ (s.entry? (.window w) ≠ none → x.comfort = s.comfort ∧ x.windows.get w = { s.windows.get w with
            run := .queued, lastStop := c, nextDir := none, pending := none, brakeDue := none })
        ∧ (∀ v, v ≠ w → x.windows.get v = s.windows.get v)
        ∧ (∀ k : Chan, x.chans.get k = if c = .pinch ∧ chanWin k = w ∧ (s.chans.get k).position ≠ .neutral then
            { s.chans.get k with waiting := true } else s.chans.get k)
        ∧ (∀ q : Port, (x.events.get q).captured =
            (s.events.get q).captured ||| (Ev.windowStopped.bit &&& (s.events.get q).mask))
        ∧ x.pinch = s.pinch ∧ x.arb = s.arb ∧ x.stages = s.stages ∧ x.store = s.store)
    ∧ (∀ (w : Win) (s : State), s.held (.window w) = false →
        (s.drive? (.window w) = none → endWindowDrive w s = s)
          ∧ (∀ d, s.drive? (.window w) = some d → endWindowDrive w s =
            scan (settleList (.window w) (if (s.windows.get w).run = .faulted then .failed else .success) d.waiting
              (s.withArb { s.arb with running := s.arb.running.filter (·.act != .window w) }))))

/-- A switch channel in RUN: a repeated position moves nothing; a press that is not permitted sets the channel
waiting; a permitted press of a stopped window starts its movement; a release clears waiting and ends a MANUAL
movement of the channel. A deepen is taken as the press at its position (log 17), an ease acts on nothing; a press or
deepen on an AUTO or TARGET movement stops it and waits. A start is applied by the run state: queued, replacing a
queued entry, taking over or turning a running drive, restarting a stop brake, or OVERRULED by a higher class; that
the restart drops a pending NORM_FAILED with the stop cause is the model's choice (log 35). A stop is refused BUSY for
a window that is REVERSING or counts as it, without a word on normalization (the model's reading, log 15), stops a
run, withdraws a queued entry, turns a direction-change brake into a stop brake, and is OVERRULED by a higher class.
-/
def Obligations.SwitchTaken : Prop :=
  (∀ (dt : Time) (c : Chan) (x : Ladder) (s : State), Awake s → decodeLadder x = (s.chans.get c).position →
      exec (.switchChannelChange dt c x) s =
        .next (refreshPark (advance dt (s.withPins { s.pins with ladders := s.pins.ladders.set c x }))))
    ∧ (∀ (dt : Time) (c : Chan) (pos : SwitchPos) (d : WDir) (s : State), Awake s →
        (s.chans.get c).position = .neutral → switchDir pos = some d →
        let u := (advance dt (s.withPins { s.pins with ladders := s.pins.ladders.set c (.band pos) })).modChan c fun r =>
          { r with position := pos }
        (s.switchPermitted c = false →
            exec (.switchChannelChange dt c (.band pos)) s =
              .next (refreshPark (u.modChan c fun r => { r with waiting := true })))
          ∧ (∀ m, s.switchPermitted c = true → (s.windows.get (chanWin c)).run = .stopped →
            s.admission (chanWin c) .switch d (if pos = .upAuto ∨ pos = .downAuto then .auto else .manual) = .go m →
            exec (.switchChannelChange dt c (.band pos)) s = .next (refreshPark
              (applyStart (chanWin c) { dir := d, mode := m, cls := .access, source := chanSource c } u).1)))
    ∧ (∀ (c : Chan) (s : State), s.switchPermitted c = true ↔ s.sys.mode = .run
        ∧ (s.ctx.ignition ≠ .off ∨ s.ctx.retainedDue ≠ none) ∧ s.crash.latched = false
        ∧ (∀ d, chanSide c = some d → s.child.effective.get d = false) ∧ (s.chans.get c).waiting = false
        ∧ (s.windows.get (chanWin c)).run ≠ .faulted ∧ (s.windows.get (chanWin c)).run ≠ .reversing
        ∧ (s.windows.get (chanWin c)).normPhase = .none)
    ∧ (∀ (dt : Time) (c : Chan) (x : Ladder) (s : State), Awake s → decodeLadder x = .neutral →
        (s.chans.get c).position ≠ .neutral → exec (.switchChannelChange dt c x) s = .next (refreshPark
          (let u := (advance dt (s.withPins { s.pins with ladders := s.pins.ladders.set c x })).modChan c fun _ =>
             { position := .neutral, waiting := false }
           if (s.windows.get (chanWin c)).mode = some .manual ∧ (s.windows.get (chanWin c)).source = some (chanSource c)
           then (applyStop (chanWin c) .access .released u).1 else u)))
    ∧ (∀ (dt : Time) (c : Chan) (pos : SwitchPos) (d : WDir) (s : State), Awake s → (s.chans.get c).position ≠ pos →
        switchDir pos = some d →
        let w := chanWin c
        let u := (advance dt (s.withPins { s.pins with ladders := s.pins.ladders.set c (.band pos) })).modChan c fun r =>
          { r with position := pos }
        let wait (x : State) : State := x.modChan c fun r => { r with waiting := true }
        let acts := switchDir (s.chans.get c).position ≠ some d ∨ pos = .upAuto ∨ pos = .downAuto
        let auto := (∃ t, (s.windows.get w).mode = some t ∧ t ≠ .manual)
          ∧ ((s.windows.get w).run = .queued ∨ (s.windows.get w).run = .runUp ∨ (s.windows.get w).run = .runDown
            ∨ ((s.windows.get w).run = .brake ∧ ((s.windows.get w).nextDir ≠ none ∨ s.entry? (.window w) ≠ none)))
        let run := exec (.switchChannelChange dt c (.band pos)) s
        let mode : WMode := if pos = .upAuto ∨ pos = .downAuto then .auto else .manual
        (¬ acts → run = .next (refreshPark u))
          ∧ (acts → s.switchPermitted c = false → run = .next (refreshPark (wait u)))
          ∧ (acts → s.switchPermitted c = true → auto →
            run = .next (refreshPark (wait (applyStop w .access .stopRequest u).1)))
          ∧ (∀ m, acts → s.switchPermitted c = true → ¬ auto → s.admission w .switch d mode = .go m →
            run = .next (refreshPark
              (applyStart w { dir := d, mode := m, cls := .access, source := chanSource c } u).1))
          ∧ (acts → s.switchPermitted c = true → ¬ auto → (∀ m, s.admission w .switch d mode ≠ .go m) →
            run = .next (refreshPark (wait u))))
    ∧ (∀ (w : Win) (q : Start) (s : State),
        let r := s.windows.get w
        let under := q.cls.rank < (r.cls.getD .comfort).rank
        let put (x : State) : State := x.setComfort w (q.source == .comfort)
        let moved := s.modWindow w fun r => { r with mode := some q.mode, source := some q.source, cls := some q.cls }
        let told (x : State) : State := x.withArb { x.arb with
          running := x.arb.running.map fun y =>
            if y.act = .window w then { y with dir := q.dir.dir, mode := some q.mode, source := q.source } else y }
        let queued (run : RunState) : State := (submit { act := .window w, dir := q.dir.dir, cls := q.cls
                                                         source := q.source, mode := some q.mode, group := none }
          (moved.modWindow w fun r => { r with run := run })).1
        (r.run = .stopped → applyStart w q s = (put (queued .queued), .queued))
          ∧ (r.run = .queued → ¬ under → applyStart w q s = (put (queued .queued), .queued))
          ∧ (r.run = .queued ∨ r.run = .runUp ∨ r.run = .runDown → under → applyStart w q s = (s, .overruled))
          ∧ ((r.run = .runUp ∧ q.dir = .up ∨ r.run = .runDown ∧ q.dir = .down) → ¬ under →
            applyStart w q s = (put (told moved), .ok))
          ∧ ((r.run = .runUp ∧ q.dir = .down ∨ r.run = .runDown ∧ q.dir = .up) → ¬ under →
            applyStart w q s = (put (brakeToChange w q.dir (told moved)), .ok))
          ∧ (r.run = .brake → s.held (.window w) = false → (r.nextDir = none ∨ ¬ under) →
            applyStart w q s = (put (told ((s.modWindow w fun r =>
              { r with nextDir := some q.dir, pending := none, pendingFault := .none }).modWindow w fun r =>
                { r with mode := some q.mode, source := some q.source, cls := some q.cls })), .ok))
          ∧ (r.run = .brake → s.held (.window w) = true →
            (∀ e, s.entry? (.window w) = some e → e.cls.rank ≤ q.cls.rank) →
            applyStart w q s = (put (queued .brake), .queued))
          ∧ (r.run = .brake → s.held (.window w) = false → r.nextDir ≠ none → under →
            applyStart w q s = (s, .overruled))
          ∧ (∀ e, r.run = .brake → s.held (.window w) = true → s.entry? (.window w) = some e →
            q.cls.rank < e.cls.rank → applyStart w q s = (s, .overruled)))
    ∧ (∀ (w : Win) (d : WDir) (s : State), (s.windows.get w).run ≠ .reversing → s.stages.get (.window w) ≠ .brake →
        let t := brakeToChange w d s
        t.windows.get w = { s.windows.get w with run := .brake, nextDir := some d, runDue := none, noPulseArmed := false
                                                 brakeDue := some (s.now + msec 40) }
          ∧ t.stages = s.stages.set (.window w) .brake ∧ (t.pinch.get w).run = none ∧ t.arb = s.arb)
    ∧ (∀ (w : Win) (c : Cls) (cause : StopCause) (s : State),
        let r := s.windows.get w
        let under := c.rank < (r.cls.getD .comfort).rank
        let reversing := r.run = .reversing ∨ r.run = .brake ∧ (r.pending = some .pinch ∨ r.pending = some .hallFault)
        let withdrawn (run : RunState) : State :=
          let u := (s.modWindow w fun r => { r with mode := none, source := none, cls := none, run := run
                                                    normPhase := .none }).withComfort (s.comfort.set w false)
          if s.entry? (.window w) = none then u
          else scan (u.withArb { s.arb with
            queue := s.arb.queue.filter (·.act != .window w)
            seq := if (s.arb.queue.filter (·.act != .window w)).isEmpty then 0 else s.arb.seq })
        (reversing → applyStop w c cause s = (s, .busy))
          ∧ (r.run = .stopped ∨ r.run = .faulted → applyStop w c cause s = (s, .ok))
          ∧ (r.run = .queued → ¬ under → applyStop w c cause s = (withdrawn .stopped, .ok))
          ∧ (r.run = .runUp ∨ r.run = .runDown → ¬ under → applyStop w c cause s = (stopRun w cause s, .ok))
          ∧ (r.run = .queued ∨ r.run = .runUp ∨ r.run = .runDown → under → applyStop w c cause s = (s, .overruled))
          ∧ (r.run = .brake → ¬ reversing →
            (s.held (.window w) = false → r.nextDir = none → applyStop w c cause s = (s, .ok))
              ∧ (s.held (.window w) = false → r.nextDir ≠ none → ¬ under → applyStop w c cause s =
                (s.modWindow w fun r => { r with nextDir := none, pending := some cause, normPhase := .none }, .ok))
              ∧ (s.held (.window w) = false → r.nextDir ≠ none → under → applyStop w c cause s = (s, .overruled))
              ∧ (s.held (.window w) = true → s.entry? (.window w) = none → applyStop w c cause s = (s, .ok))
              ∧ (∀ e, s.held (.window w) = true → s.entry? (.window w) = some e →
                (e.cls.rank ≤ c.rank → applyStop w c cause s = (withdrawn .brake, .ok))
                  ∧ (c.rank < e.cls.rank → applyStop w c cause s = (s, .overruled)))))

/-- WINDOW_REQUEST: CLOSE and OPEN are admitted and applied for the port, STOP stops, MOVE_TO moves to a position
clamped to Pmax. The admission checks in their order: CRASH_ACTIVE, NOT_NORMALIZED in FAULTED, BUSY for a window that
reverses, counts as it or normalizes; a restricted window refuses an upward movement INHIBITED but from a switch,
which gets MANUAL; a mode other than MANUAL needs LEARNED upwards and a known position downwards, refused to a port
and made MANUAL for others; a LEARNED window at or beyond Pmax − 8 stays still. The body and restraint ports ask at
class 1, the radio port at class 2. -/
def Obligations.WindowRequested : Prop :=
  (∀ (dt : Time) (p : Port) (b a : Byte) (w : Win) (d : WDir) (s : State), Receiving s p → Admitted s p 3 →
      winOf b = some w → (a = 0 ∧ d = .up ∨ a = 1 ∧ d = .down) →
      let u := atOwner dt p s
      (∀ m, s.admission w .port d .auto = .go m → exec (.windowRequest dt p [b, a]) s = .next
          (let x := applyStart w { dir := d, mode := m, cls := portClass p, source := portSource p } u
           answered p 0x30 (Reply.of x.2) x.1))
        ∧ (s.admission w .port d .auto = .still →
          exec (.windowRequest dt p [b, a]) s = .next (answered p 0x30 (Reply.of .ok) u))
        ∧ (∀ x, s.admission w .port d .auto = .no x →
          exec (.windowRequest dt p [b, a]) s = .next (answered p 0x30 (Reply.of x) u)))
    ∧ (∀ (dt : Time) (p : Port) (b : Byte) (w : Win) (s : State), Receiving s p → Admitted s p 3 → winOf b = some w →
        exec (.windowRequest dt p [b, 2]) s = .next
          (let x := applyStop w (portClass p) .stopRequest (atOwner dt p s)
           answered p 0x30 (Reply.of x.2) x.1))
    ∧ (∀ (dt : Time) (p : Port) (b hi lo : Byte) (w : Win) (s : State), Receiving s p → Admitted s p 3 →
        winOf b = some w →
        let u := atOwner dt p s
        let r := s.windows.get w
        let x := hi.toNat * 256 + lo.toNat
        let pmax := r.pmax.getD 2047
        let t := min x pmax
        let run := exec (.windowRequest dt p [b, 3, hi, lo]) s
        (∀ res, s.windowBarred w = some res → run = .next (answered p 0x30 (Reply.of res) u))
          ∧ (s.windowBarred w = none → r.norm ≠ .learned → run = .next (answered p 0x30 (Reply.of .notNormalized) u))
          ∧ (s.windowBarred w = none → r.norm = .learned → run = .next
            (let y := if t = 0 then portStart p w .up .auto u
                      else if t = pmax then portStart p w .down .auto u
                      else if t < r.p then portStart p w .up (.target t) u
                      else if r.p < t then portStart p w .down (.target t) u
                      else applyStop w (portClass p) .target u
             answered p 0x30 (Reply.of (if t ≠ x ∧ (y.2 = .queued ∨ y.2 = .ok) then .clamped else y.2)) y.1)))
    ∧ (∀ (w : Win) (s : State),
        let r := s.windows.get w
        s.windowBarred w =
          if s.crash.latched = true then some .crashActive
          else if r.run = .faulted then some .notNormalized
          else if r.run = .reversing ∨ (r.run = .brake ∧ (r.pending = some .pinch ∨ r.pending = some .hallFault))
            ∨ r.normPhase ≠ .none then some .busy
          else none)
    ∧ (∀ (w : Win) (a : Asker) (d : WDir) (m : WMode) (s : State),
        let r := s.windows.get w
        let pm := r.pmax.getD 2047
        let x := s.admission w a d m
        (∀ b, s.windowBarred w = some b → x = .no b)
          ∧ (s.windowBarred w = none → d = .up →
            (r.restricted = true → x = if a = .switch then .go .manual else .no .inhibited)
              ∧ (r.restricted = false → m ≠ .manual → r.norm ≠ .learned →
                x = if a = .port then .no .notNormalized else .go .manual)
              ∧ (r.restricted = false → m = .manual ∨ r.norm = .learned → x = .go m))
          ∧ (s.windowBarred w = none → d = .down →
            (m ≠ .manual → r.norm = .unlearned → x = if a = .port then .no .notNormalized else .go .manual)
              ∧ (r.norm = .learned → pm ≤ r.p + 8 → x = .still)
              ∧ (r.norm = .learned → r.p + 8 < pm → x = .go m)
              ∧ (r.norm = .positionLost ∨ (r.norm = .unlearned ∧ m = .manual) → x = .go m)))
    ∧ (∀ (p : Port) (w : Win) (d : WDir) (m : WMode) (s : State),
        (∀ x, s.admission w .port d m = .no x → portStart p w d m s = (s, x))
          ∧ (s.admission w .port d m = .still → portStart p w d m s = (s, .ok))
          ∧ (∀ n, s.admission w .port d m = .go n → portStart p w d m s =
            applyStart w { dir := d, mode := n, cls := portClass p, source := portSource p } s))
    ∧ (portClass .body = .comfort ∧ portClass .radio = .access ∧ portClass .restraint = .comfort
        ∧ portSource .body = .bodyPort ∧ portSource .radio = .radioPort ∧ portSource .restraint = .restraintPort)

/-- NORMALIZE_WINDOW: refused CRASH_ACTIVE under the latch and BUSY unless the window is STOPPED or FAULTED; otherwise
fault, reversal count and restriction are cleared, the window is unlearned, and an UP movement of the procedure is
submitted in NORM_UP with mode AUTO and source NORMALIZE. Unlearning a window that is not UNLEARNED captures
NORMALIZATION_CHANGED and queues its first row with Pmax, UNLEARNED and the first five Ref entries. -/
def Obligations.NormalizationStarts : Prop :=
  (∀ (dt : Time) (p : Port) (b : Byte) (w : Win) (s : State), Receiving s p → Admitted s p 3 → winOf b = some w →
    exec (.normalizeWindow dt p [b]) s = .next
      (if s.crash.latched then answered p 0x31 (Reply.of .crashActive) (atOwner dt p s)
       else if (s.windows.get w).run ≠ .stopped ∧ (s.windows.get w).run ≠ .faulted then
         answered p 0x31 (Reply.of .busy) (atOwner dt p s)
       else answered p 0x31 (Reply.of .queued) (startNormalizing p w (atOwner dt p s)).1))
    ∧ (∀ (p : Port) (w : Win) (s : State), startNormalizing p w s =
        (let u := unlearn w (s.modWindow w fun r => { r with fault := .none, reversals := 0, restricted := false })
         let v := u.modWindow w fun r => { r with normPhase := .normUp, mode := some .auto, source := some .normalize
                                                  cls := some (portClass p), run := .queued }
         ((submit { act := .window w, dir := .up, cls := portClass p, source := .normalize, mode := some .auto
                    group := none } v).1, .queued)))
    ∧ (∀ (w : Win) (s : State),
        ((s.windows.get w).norm = .unlearned → unlearn w s = s)
          ∧ ((s.windows.get w).norm ≠ .unlearned → unlearn w s = storeWrite (w.row 0)
            (padBytes 13 (be16 ((s.windows.get w).pmax.getD 0) ++ [0] ++ ((s.profiles.get w).toList.take 5).flatMap be16))
            (offer .normalizationChanged (s.modWindow w fun r => { r with norm := .unlearned }))))

/-! ### Access -/

/-- The counter test of a telegram found in an ACTIVE slot: d = C − L modulo 2^32. At d = 0 a repeat index above 0 with the
button of the slot's last press, while the held-press tracker follows it, is a REPEAT, and anything else is STALE; up to W
the telegram is ACCEPTED; up to 32768 it is RESYNCED after a pending counter 1 or 2 below it, and RESYNC_PENDING otherwise;
above that it is STALE. The repeat index plays no part for d above 0. -/
def Obligations.CounterJudged : Prop :=
  ∀ (k : SlotId) (c : Word32) (b : Button) (n : Nat) (s : State),
    let d := (c - (s.fobs.get k).counter).toNat
    (1 ≤ d → d ≤ s.cfg.window → s.judgeTelegram k c b n = .accepted)
      ∧ (s.cfg.window < d → d ≤ 32768 → (s.fobs.get k).resync = none → s.judgeTelegram k c b n = .resyncPending)
      ∧ (∀ q, s.cfg.window < d → d ≤ 32768 → (s.fobs.get k).resync = some q → (c = q + 1 ∨ c = q + 2) →
          s.judgeTelegram k c b n = .resynced)
      ∧ (∀ q, s.cfg.window < d → d ≤ 32768 → (s.fobs.get k).resync = some q → c ≠ q + 1 → c ≠ q + 2 →
          s.judgeTelegram k c b n = .resyncPending)
      ∧ (32768 < d → s.judgeTelegram k c b n = .stale)
      ∧ (d = 0 → n = 0 → s.judgeTelegram k c b n = .stale)
      ∧ (d = 0 → 0 < n → s.tracker.held.any (·.slot == k) = true →
          (s.fobs.get k).press.any (·.button == b) = true → s.judgeTelegram k c b n = .repeated)
      ∧ (d = 0 → (s.tracker.held.any (·.slot == k) = false ∨ (s.fobs.get k).press.any (·.button == b) = false) →
          s.judgeTelegram k c b n = .stale)
      ∧ s.cfg.window ≤ 2040

/-- ACCESS_TELEGRAM: an identifier no enrolled slot holds is refused UNKNOWN_FOB; a suspended slot, a pending
resynchronization and a stale counter are refused with their verdicts and no action; the table is otherwise kept. -/
def Obligations.TelegramRejected : Prop :=
  ∀ (dt : Time) (p : Port) (i3 i2 i1 i0 c3 c2 c1 c0 b n : Byte) (button : Button) (s : State), Receiving s p →
    Admitted s p 4 → buttonOf b = some button → n.toNat ≤ 15 →
    let run := exec (.accessTelegram dt p [i3, i2, i1, i0, c3, c2, c1, c0, b, n]) s
    let u := atOwner dt p s
    let c := word32 c3 c2 c1 c0
    (s.findFob (word32 i3 i2 i1 i0) = none →
        run = .next (answered p 0x40 { result := .unknownFob, payload := [0xFF, 0xFF, 0] } (offer .telegramRejected u)))
      ∧ ∀ k, s.findFob (word32 i3 i2 i1 i0) = some k →
        ((s.fobs.get k).state = .suspended →
            run = .next (answered p 0x40 { result := .fobSuspended, payload := [byteOf k.index, 0xFF, 0] }
              (offer .telegramRejected (u.modFob k fun f => { f with verdict := .suspended }))))
          ∧ ((s.fobs.get k).state ≠ .suspended → s.judgeTelegram k c button n.toNat = .resyncPending →
            run = .next (answered p 0x40 { result := .resyncPending, payload := [byteOf k.index, 0xFF, 0] }
              (offer .telegramRejected (u.modFob k fun f => { f with resync := some c, verdict := .resyncPending }))))
          ∧ ((s.fobs.get k).state ≠ .suspended → s.judgeTelegram k c button n.toNat = .stale →
            run = .next (answered p 0x40 { result := .stale, payload := [byteOf k.index, 0xFF, 0] }
              (offer .telegramRejected (u.modFob k fun f =>
                { f with failures := min 255 (f.failures + 1), verdict := .stale }))))

/-- ACCESS_TELEGRAM accepted: OK with the slot, the action's result and its group id; the slot update comes first,
then the tracker, then the action. The slot takes the counter as L, and the ceiling rises by 32 above it when the
counter has reached it, with the row queued; it records the press, and TELEGRAM_ACCEPTED is captured. LOCK and UNLOCK
hand a fob action with the slot's unlock mode, TAILGATE a release request of class 2, refused MOVING. A repeat is
answered REPEATED and restarts the tracker. The slot found is an ACTIVE or SUSPENDED one that holds the identifier. -/
def Obligations.TelegramAccepted : Prop :=
  (∀ (dt : Time) (p : Port) (i3 i2 i1 i0 c3 c2 c1 c0 b n : Byte) (button : Button) (k : SlotId) (v : Verdict) (s : State),
     Receiving s p → Admitted s p 4 → buttonOf b = some button → n.toNat ≤ 15 →
     s.findFob (word32 i3 i2 i1 i0) = some k → (s.fobs.get k).state ≠ .suspended → (v = .accepted ∨ v = .resynced) →
     s.judgeTelegram k (word32 c3 c2 c1 c0) button n.toNat = v →
     exec (.accessTelegram dt p [i3, i2, i1, i0, c3, c2, c1, c0, b, n]) s = .next
       (let x := pressAction p k button (trackPress k button (acceptPress k (word32 c3 c2 c1 c0) button v (atOwner dt p s)))
        answered p 0x40 { result := .ok, payload := [byteOf k.index, x.2.1.code, byteOf x.2.2] }
          (x.1.withTracker { x.1.tracker with eligible := x.1.tracker.eligible && x.2.1.accepts })))
    ∧ (∀ (k : SlotId) (c : Word32) (b : Button) (v : Verdict) (s : State),
       let f := (acceptPress k c b v s).fobs.get k
       f.counter = c ∧ f.resync = none ∧ f.failures = 0 ∧ f.verdict = v
         ∧ f.press = some { button := b, counter := c, time := s.now, repeatSeen := false }
         ∧ f.state = (s.fobs.get k).state ∧ f.ident = (s.fobs.get k).ident ∧ f.mode = (s.fobs.get k).mode
         ∧ f.comfort = (s.fobs.get k).comfort
         ∧ (s.sys.mode = .run → ∀ q : Port, ((acceptPress k c b v s).events.get q).captured =
             (s.events.get q).captured ||| (Ev.telegramAccepted.bit &&& (s.events.get q).mask))
         ∧ ((c - (s.fobs.get k).ceiling).toNat < 2147483648 → f.ceiling = c + 32
             ∧ (s.store.shadows[k.row].isVolatile = false → k.row ∈ (acceptPress k c b v s).store.queue))
         ∧ (2147483648 ≤ (c - (s.fobs.get k).ceiling).toNat → f.ceiling = (s.fobs.get k).ceiling)
         ∧ ∀ j, j ≠ k → (acceptPress k c b v s).fobs.get j = s.fobs.get j)
    ∧ (∀ (dt : Time) (p : Port) (i3 i2 i1 i0 c3 c2 c1 c0 b n : Byte) (button : Button) (k : SlotId) (s : State),
        Receiving s p → Admitted s p 4 → buttonOf b = some button → n.toNat ≤ 15 →
        s.findFob (word32 i3 i2 i1 i0) = some k → (s.fobs.get k).state ≠ .suspended →
        s.judgeTelegram k (word32 c3 c2 c1 c0) button n.toNat = .repeated →
        exec (.accessTelegram dt p [i3, i2, i1, i0, c3, c2, c1, c0, b, n]) s = .next
          (let u := (atOwner dt p s).modFob k fun f =>
             { f with verdict := .repeated, press := f.press.map fun x => { x with repeatSeen := true } }
           answered p 0x40 { result := .repeated, payload := [byteOf k.index, 0xFF, 0] } (trackRepeat k
             (if (s.fobs.get k).press.any (fun x => x.repeatSeen = false) then offer .telegramAccepted u else u))))
    ∧ (∀ (p : Port) (k : SlotId) (s : State),
        pressAction p k .lock s = fobAction p k .lock (s.fobs.get k).mode s
          ∧ pressAction p k .unlock s = fobAction p k .unlock (s.fobs.get k).mode s
          ∧ (s.effSpeed = .moving → pressAction p k .tailgate s = (s, .moving, 0))
          ∧ (s.effSpeed = .standstill → pressAction p k .tailgate s =
            (let x := submit { act := .release, dir := .release, cls := .access, source := .fob, mode := none
                               group := none } s
             (x.1, match x.2 with | .queued => .queued | .merged => .merged | .overruled => .overruled, 0))))
    ∧ (∀ (i : Word32) (s : State),
        (∀ k, s.findFob i = some k → (s.fobs.get k).enrolled = true ∧ (s.fobs.get k).ident = i)
          ∧ (s.findFob i = none ↔ ∀ k : SlotId, (s.fobs.get k).enrolled = true → (s.fobs.get k).ident ≠ i)
          ∧ (∀ k : SlotId, (s.fobs.get k).enrolled = true ↔
            (s.fobs.get k).state = .active ∨ (s.fobs.get k).state = .suspended))

/-- The fob, passive, ignition and comfort actions. A fob press is refused IGNITION_STATE unless the ignition is OFF;
else a first LOCK locks all with the door check, a second deadlocks, a first UNLOCK opens the driver's door or all by
the slot's mode, a second all; the record keeps a first press for 3 s and is emptied by a refused one (OVERRULED
included: log 27). A passive action unlocks the door of its origin or all, locks all with the door check, or releases
the tailgate. Ignition leaving OFF unlocks the side doors deadlocked or about to be (a motor whose running drive is an
UNLOCK merges, and a DEADLOCK entry behind it stays: the model's choice, log 47). A press is followed for its gap of
300 ms; its repeats start comfort after the hold time, which offers an AUTO movement to W1 to W4; its end stops the
windows still in the set. -/
def Obligations.OccupantActions : Prop :=
  (∀ (p : Port) (k : SlotId) (b : KeyDir) (m : UnlockMode) (s : State),
      let second : Bool := s.presses.fob.any fun r => r.slot == k && r.button == b
      let op : Action × List Actuator := match b, m, second with
        | .lock, _, false => (.lockAll, Latch.list.map .lock)
        | .lock, _, true => (.deadlockAll, Latch.sides.map .lock)
        | .unlock, .selective, false => (.unlockDriver, [.lock s.driverLatch])
        | .unlock, _, _ => (.unlockAll, Latch.list.map .lock)
      let keeps : Bool := !second && (b == .lock || m == .selective)
      (s.ctx.ignition ≠ .off → fobAction p k b m s =
          (s.withPresses { s.presses with relockDue := none, fob := none }, .ignitionState, 0))
        ∧ (s.ctx.ignition = .off → fobAction p k b m s =
          (let x := lockOperation { source := .fob, port := some p, cls := .access, action := op.1, members := op.2
                                    pattern := some (if op.1 = .lockAll then 0 else if op.1 = .deadlockAll then 2 else 1) }
             (b == .lock && !second) s
           (x.1.withPresses { x.1.presses with
              fob := if keeps && x.2.1.accepts then some { slot := k, button := b, due := s.now + sec 3 } else none },
            x.2.1, x.2.2))))
    ∧ (∀ (p : Port) (o : Origin) (m : UnlockMode) (s : State),
        let run (act : Action) (ms : List Actuator) (pat : Fin 8) (door : Bool) := lockOperation
          { source := .passive, port := some p, cls := .access, action := act, members := ms, pattern := some pat } door s
        (o = .flLock ∨ o = .frLock → passiveAction p o m s = run .lockAll (Latch.list.map .lock) 0 true)
          ∧ (o = .flUnlock → m = .selective → passiveAction p o m s = run .unlockDoor [.lock .fl] 1 false)
          ∧ (o = .frUnlock → m = .selective → passiveAction p o m s = run .unlockDoor [.lock .fr] 1 false)
          ∧ (o = .flUnlock ∨ o = .frUnlock → m = .global →
            passiveAction p o m s = run .unlockAll (Latch.list.map .lock) 1 false)
          ∧ (o = .tg → s.effSpeed = .moving → passiveAction p o m s = (s, .moving, 0))
          ∧ (o = .tg → s.effSpeed = .standstill → passiveAction p o m s =
            (let x := submit { act := .release, dir := .release, cls := .access, source := .passive, mode := none
                               group := none } s
             (x.1, match x.2 with | .queued => .queued | .merged => .merged | .overruled => .overruled, 0))))
    ∧ (∀ s : State,
        let u := s.withPresses { s.presses with relockDue := none }
        let ms := (Latch.sides.map Actuator.lock).filter fun a =>
          s.stateIsTarget .deadlock a || (s.drive? a).any (·.dir == .deadlock) || (s.entry? a).any (·.dir == .deadlock)
        (ms = [] → ignitionRelease s = u)
          ∧ (ms ≠ [] → ignitionRelease s =
            (runInternal { source := .ignition, port := none, cls := .occupant, action := .unlockAll, members := ms
                           pattern := none } u).1))
    ∧ (∀ (k : SlotId) (b : Button) (s : State), ∃ t, trackPress k b s = t
        ∧ t.tracker = { held := some { slot := k, button := b, comfort := false, gapDue := s.now + msec 300 }
                        eligible := b != .tailgate && s.cfg.comfortEnable && (s.fobs.get k).comfort
                        holdTime := s.cfg.holdTime }
        ∧ t = (if s.tracker.held.any (·.comfort) = true then endComfort s else s).withTracker t.tracker)
    ∧ (∀ (k : SlotId) (h : Held) (x : LastPress) (s : State), s.tracker.held = some h → (s.fobs.get k).press = some x →
        let begins := h.comfort = false ∧ s.tracker.eligible = true ∧ s.tracker.holdTime ≤ s.now - x.time
          ∧ s.crash.latched = false
        let u (c : Bool) := s.withTracker { s.tracker with
          held := some { h with gapDue := s.now + msec 300, comfort := c } }
        (begins → trackRepeat k s = startComfort (if h.button = .lock then .up else .down) (u true))
          ∧ (¬ begins → trackRepeat k s = u h.comfort))
    ∧ (∀ (d : WDir) (s : State), startComfort d s =
        comfortWindow d .w4 (comfortWindow d .w3 (comfortWindow d .w2 (comfortWindow d .w1 s))))
    ∧ (∀ (d : WDir) (w : Win) (s : State),
        (∀ m, s.admission w .comfort d .auto = .go m → comfortWindow d w s =
            (applyStart w { dir := d, mode := m, cls := .access, source := .comfort } s).1)
          ∧ ((∀ m, s.admission w .comfort d .auto ≠ .go m) → comfortWindow d w s = s))
    ∧ (∀ s : State,
        let stop (w : Win) (x : State) : State :=
          if x.comfort.get w = true then (applyStop w .access .stopRequest x).1 else x
        endComfort s = (stop .w4 (stop .w3 (stop .w2 (stop .w1 s)))).withComfort (Wins.all false))

/-- A touch in RUN starts a search when passive entry is enabled, the ignition is OFF, no crash is latched and none is
in flight; TG_BUTTON does so for a locked tailgate, and releases an unlocked one unless the effective speed is MOVING.
-/
def Obligations.PassiveTriggers : Prop :=
  (∀ (dt : Time) (x : Touch) (s : State), Awake s → exec (.passiveTrigger dt x true) s = .next (refreshPark
        (if s.cfg.passiveEnable = true ∧ s.ctx.ignition = .off ∧ s.crash.latched = false ∧ s.search.state ≠ .inFlight then
          startSearch (touchOrigin x) (advance dt s) else advance dt s)))
    ∧ (∀ (dt : Time) (s : State), Awake s → exec (.tgButtonPress dt true) s = .next (refreshPark
        (if (s.latches.get .tg).state = .unlocked then
          (if s.effSpeed = .moving then advance dt s
           else (submit { act := .release, dir := .release, cls := .access, source := .tgButton, mode := none, group := none }
             (advance dt s)).1)
         else if s.cfg.passiveEnable = true ∧ s.ctx.ignition = .off ∧ s.crash.latched = false ∧ s.search.state ≠ .inFlight
         then startSearch .tg (advance dt s) else advance dt s)))
    ∧ (∀ (dt : Time) (x : Touch) (s : State), Awake s →
        exec (.passiveTrigger dt x false) s = .next (refreshPark (advance dt s))
          ∧ exec (.tgButtonPress dt false) s = .next (refreshPark (advance dt s)))
    ∧ (∀ (o : Origin) (s : State), ∃ t, startSearch o s = t ∧ t.search.state = .inFlight ∧ t.search.seq = s.search.seq + 1
        ∧ t.search.origin = some o ∧ t.search.due = some (s.now + msec (10 * s.cfg.searchTimeout)))
    ∧ [Touch.unlockFL, .lockFL, .unlockFR, .lockFR].map touchOrigin = [.flUnlock, .flLock, .frUnlock, .frLock]

/-- READ_SEARCH answers the sequence number and the origin of a search in flight and nothing otherwise; a timeout ends
the search with outcome TIMEOUT and no action. -/
def Obligations.SearchReadAndTimedOut : Prop :=
  (∀ (dt : Time) (p : Port) (o : Origin) (s : State), Receiving s p → Admitted s p 4 → s.search.state = .inFlight →
      s.search.origin = some o →
      exec (.readSearch dt p []) s =
        .next (answered p 0x41 { result := .ok, payload := [s.search.seq, originCode o] } (atOwner dt p s)))
    ∧ (∀ (dt : Time) (p : Port) (s : State), Receiving s p → Admitted s p 4 → s.search.state ≠ .inFlight →
        exec (.readSearch dt p []) s = .next (answered p 0x41 (Reply.of .ok) (atOwner dt p s)))
    ∧ (∀ (d : Time) (s : State), s.search.due = some d →
        exec .searchTimeout s = .next (refreshPark (offer .searchEnded ((reach d s).withSearch
          { s.search with state := .ended, due := none, outcome := some .timeout, slot := none, zone := none
                          inside := none, action := .none }))))

/-- SEARCH_RESULT: LATE, in either form, unless a search is in flight with the sequence number carried; not found ends the
search with NO_FOB; a lock origin with a fob inside ends in KEY_INSIDE with its pattern, whatever was found; a fob found is
judged UNKNOWN_FOB, FOB_SUSPENDED or ZONE_MISMATCH in that order, and one in the matching zone acts as its origin and its
mode say. -/
def Obligations.SearchResulted : Prop :=
  (∀ (dt : Time) (p : Port) (seq inside : Byte) (s : State), Receiving s p → Admitted s p 4 → (inside = 0 ∨ inside = 1) →
      (s.search.state ≠ .inFlight ∨ s.search.seq ≠ seq) →
      exec (.searchResult dt p [seq, 1, inside]) s = .next (answered p 0x42 (Reply.of .late) (atOwner dt p s)))
    ∧ (∀ (dt : Time) (p : Port) (seq inside i3 i2 i1 i0 zone : Byte) (s : State), Receiving s p → Admitted s p 4 →
        (inside = 0 ∨ inside = 1) → zone.toNat ≤ 3 → (s.search.state ≠ .inFlight ∨ s.search.seq ≠ seq) →
        exec (.searchResult dt p [seq, 0, inside, i3, i2, i1, i0, zone]) s =
          .next (answered p 0x42 (Reply.of .late) (atOwner dt p s)))
    ∧ (∀ (dt : Time) (p : Port) (o : Origin) (inside : Byte) (b : Bool) (s : State), Receiving s p → Admitted s p 4 →
        s.search.state = .inFlight → s.search.origin = some o → boolOf inside = some b →
        (o = .flLock ∨ o = .frLock → b = false) →
        exec (.searchResult dt p [s.search.seq, 1, inside]) s = .next
          (let u := endSearch .notFound none none (some b) (atOwner dt p s)
           answered p 0x42 { result := .ok, payload := [0xFF, 0xFF, 0] }
             (u.withSearch { u.search with action := .noFob, group := 0 })))
    ∧ (∀ (dt : Time) (p : Port) (o : Origin) (s : State), Receiving s p → Admitted s p 4 → s.search.state = .inFlight →
        s.search.origin = some o → (o = .flLock ∨ o = .frLock) →
        exec (.searchResult dt p [s.search.seq, 1, 1]) s = .next
          (let u := endSearch .notFound none none (some true) (atOwner dt p s)
           answered p 0x42 { result := .ok, payload := [0xFF, 0xFF, 0] }
             (patternRequest 3 (offer .keyInside (u.withSearch { u.search with action := .keyInside, group := 0 })))))
    ∧ (∀ (dt : Time) (p : Port) (o : Origin) (i3 i2 i1 i0 zone : Byte) (z : Zone) (s : State), Receiving s p →
        Admitted s p 4 → s.search.state = .inFlight → s.search.origin = some o → (o = .flLock ∨ o = .frLock) →
        zoneByteOf zone = some z →
        exec (.searchResult dt p [s.search.seq, 0, 1, i3, i2, i1, i0, zone]) s = .next
          (let k := s.findFob (word32 i3 i2 i1 i0)
           let u := endSearch .found k (some z) (some true) (atOwner dt p s)
           answered p 0x42 { result := .ok
                             payload := [match k with | none => 0xFF | some k => byteOf k.index, 0xFF, 0] }
             (patternRequest 3 (offer .keyInside (u.withSearch { u.search with action := .keyInside, group := 0 })))))
    ∧ (∀ (dt : Time) (p : Port) (o : Origin) (inside i3 i2 i1 i0 zone : Byte) (z : Zone) (b : Bool) (s : State),
        Receiving s p → Admitted s p 4 → s.search.state = .inFlight → s.search.origin = some o →
        zoneByteOf zone = some z → boolOf inside = some b → (o = .flLock ∨ o = .frLock → b = false) →
        let run := exec (.searchResult dt p [s.search.seq, 0, inside, i3, i2, i1, i0, zone]) s
        let ends (k : Option SlotId) (a : SearchAction) : Out :=
          let u := endSearch .found k (some z) (some b) (atOwner dt p s)
          .next (answered p 0x42 { result := .ok
                                   payload := [match k with | none => 0xFF | some k => byteOf k.index, 0xFF, 0] }
            (u.withSearch { u.search with action := a, group := 0 }))
        (s.findFob (word32 i3 i2 i1 i0) = none → run = ends none (.code .unknownFob))
          ∧ (∀ k, s.findFob (word32 i3 i2 i1 i0) = some k → (s.fobs.get k).state = .suspended →
            run = ends (some k) (.code .fobSuspended))
          ∧ (∀ k, s.findFob (word32 i3 i2 i1 i0) = some k → (s.fobs.get k).state ≠ .suspended →
            z ≠ matchingZone o → run = ends (some k) .zoneMismatch))
    ∧ (matchingZone .flUnlock = .outsideFL ∧ matchingZone .flLock = .outsideFL ∧ matchingZone .frUnlock = .outsideFR
        ∧ matchingZone .frLock = .outsideFR ∧ matchingZone .tg = .outsideRear)
    ∧ (∀ (dt : Time) (p : Port) (o : Origin) (inside i3 i2 i1 i0 zone : Byte) (b : Bool) (k : SlotId) (s : State),
        Receiving s p → Admitted s p 4 → s.search.state = .inFlight → s.search.origin = some o →
        s.findFob (word32 i3 i2 i1 i0) = some k → (s.fobs.get k).state ≠ .suspended →
        zoneByteOf zone = some (matchingZone o) → boolOf inside = some b → (o = .flLock ∨ o = .frLock → b = false) →
        exec (.searchResult dt p [s.search.seq, 0, inside, i3, i2, i1, i0, zone]) s = .next
          (let x := passiveAction p o (s.fobs.get k).mode
             (endSearch .found (some k) (some (matchingZone o)) (some b) (atOwner dt p s))
           answered p 0x42 { result := .ok, payload := [byteOf k.index, x.2.1.code, byteOf x.2.2] }
             (x.1.withSearch { x.1.search with action := .code x.2.1, group := x.2.2 })))
    ∧ (∀ (c : SearchOutcome) (k : Option SlotId) (z : Option Zone) (b : Option Bool) (s : State), endSearch c k z b s =
        offer .searchEnded (s.withSearch { s.search with
          state := .ended, due := none, outcome := some c, slot := k, zone := z, inside := b, action := .none }))

/-- The common checks of every fob administration request: refused IGNITION_STATE unless the ignition is RUN, then MOVING
unless the speed is STANDSTILL and fresh. SUSPEND_FOB and REINSTATE_FOB are refused UNKNOWN_FOB unless the slot is ACTIVE or
SUSPENDED; the state changes, its row is queued and the pending resynchronization is dropped; a slot already so is answered
OK and unchanged. SET_FOB_MODE sets the two values and queues the row when either changed, keeping a pending value (the
model's choice, log 42); a slot not enrolled is refused UNKNOWN_FOB. -/
def Obligations.FobAdministrationChecked : Prop :=
  (∀ (dt : Time) (p : Port) (b : Byte) (k : SlotId) (s : State), Receiving s p → Admitted s p 5 → slotOf b = some k →
    (s.ctx.ignition ≠ .run →
        exec (.removeFob dt p [b]) s = .next (answered p 0x51 (Reply.of .ignitionState) (atOwner dt p s))
          ∧ exec (.suspendFob dt p [b]) s = .next (answered p 0x52 (Reply.of .ignitionState) (atOwner dt p s))
          ∧ exec (.reinstateFob dt p [b]) s = .next (answered p 0x53 (Reply.of .ignitionState) (atOwner dt p s)))
      ∧ (s.ctx.ignition = .run → (s.ctx.speed = .moving ∨ s.ctx.fresh = false) →
        exec (.removeFob dt p [b]) s = .next (answered p 0x51 (Reply.of .moving) (atOwner dt p s))
          ∧ exec (.suspendFob dt p [b]) s = .next (answered p 0x52 (Reply.of .moving) (atOwner dt p s))
          ∧ exec (.reinstateFob dt p [b]) s = .next (answered p 0x53 (Reply.of .moving) (atOwner dt p s))))
    ∧ (∀ (dt : Time) (p : Port) (sb i3 i2 i1 i0 c3 c2 c1 c0 mb cb : Byte) (k : SlotId) (m : UnlockMode) (b : Bool)
        (s : State), Receiving s p → Admitted s p 5 → slotOf sb = some k → modeOf mb = some m → boolOf cb = some b →
        (s.ctx.ignition ≠ .run →
            exec (.enrolFob dt p [sb, i3, i2, i1, i0, c3, c2, c1, c0, mb, cb]) s =
                .next (answered p 0x50 (Reply.of .ignitionState) (atOwner dt p s))
              ∧ exec (.setFobMode dt p [sb, mb, cb]) s =
                .next (answered p 0x54 (Reply.of .ignitionState) (atOwner dt p s)))
          ∧ (s.ctx.ignition = .run → (s.ctx.speed = .moving ∨ s.ctx.fresh = false) →
            exec (.enrolFob dt p [sb, i3, i2, i1, i0, c3, c2, c1, c0, mb, cb]) s =
                .next (answered p 0x50 (Reply.of .moving) (atOwner dt p s))
              ∧ exec (.setFobMode dt p [sb, mb, cb]) s =
                .next (answered p 0x54 (Reply.of .moving) (atOwner dt p s))))
    ∧ (∀ (dt : Time) (p : Port) (b : Byte) (k : SlotId) (s : State), Receiving s p → Admitted s p 5 → slotOf b = some k →
     s.ctx.ignition = .run → s.effSpeed = .standstill →
     let u := atOwner dt p s
     ((s.fobs.get k).state = .active →
         exec (.suspendFob dt p [b]) s = .next (answered p 0x52 (Reply.of .ok)
           (let w := writeFob k (u.modFob k fun f => { f with state := .suspended, resync := none })
            if s.follows k then releaseTracker w else w))
         ∧ exec (.reinstateFob dt p [b]) s = .next (answered p 0x53 (Reply.of .ok) u))
       ∧ ((s.fobs.get k).state = .suspended →
         exec (.suspendFob dt p [b]) s = .next (answered p 0x52 (Reply.of .ok) u)
         ∧ exec (.reinstateFob dt p [b]) s = .next (answered p 0x53 (Reply.of .ok)
             (writeFob k (u.modFob k fun f => { f with state := .active, resync := none }))))
       ∧ ((s.fobs.get k).enrolled = false →
         exec (.suspendFob dt p [b]) s = .next (answered p 0x52 (Reply.of .unknownFob) u)
         ∧ exec (.reinstateFob dt p [b]) s = .next (answered p 0x53 (Reply.of .unknownFob) u)))
    ∧ (∀ (dt : Time) (p : Port) (sb mb cb : Byte) (k : SlotId) (m : UnlockMode) (b : Bool) (s : State), Receiving s p →
       Admitted s p 5 → slotOf sb = some k → modeOf mb = some m → boolOf cb = some b → s.ctx.ignition = .run →
       s.effSpeed = .standstill →
       let u := atOwner dt p s
       exec (.setFobMode dt p [sb, mb, cb]) s = .next
         (if (s.fobs.get k).enrolled = false then answered p 0x54 (Reply.of .unknownFob) u
          else if (s.fobs.get k).mode = m ∧ (s.fobs.get k).comfort = b then answered p 0x54 (Reply.of .ok) u
          else answered p 0x54 (Reply.of .ok) (writeFob k (u.modFob k fun f => { f with mode := m, comfort := b }))))

/-- ENROL_FOB and REMOVE_FOB: an EMPTY or INVALID slot takes the fob with a ceiling of K + 32, its row is queued and
pattern 5 is played; an enrolled slot is refused SLOT_IN_USE and an enrolled identifier DUPLICATE; a removed slot
becomes EMPTY and its row is queued; an EMPTY one is answered OK and unchanged. The row of a slot holds identifier,
ceiling, state, mode and comfort flag as section 9.6 lists them; releasing the held press ends its comfort. -/
def Obligations.FobsEnrolledAndRemoved : Prop :=
  (∀ (dt : Time) (p : Port) (sb i3 i2 i1 i0 c3 c2 c1 c0 mb cb : Byte) (k : SlotId) (m : UnlockMode) (b : Bool) (s : State),
      Receiving s p → Admitted s p 5 → slotOf sb = some k → modeOf mb = some m → boolOf cb = some b →
      s.ctx.ignition = .run → s.effSpeed = .standstill → (s.fobs.get k).enrolled = false →
      s.findFob (word32 i3 i2 i1 i0) = none →
      exec (.enrolFob dt p [sb, i3, i2, i1, i0, c3, c2, c1, c0, mb, cb]) s = .next (answered p 0x50 (Reply.of .ok)
        (patternRequest 5 (writeFob k ((atOwner dt p s).modFob k fun _ =>
          { state := .active, ident := word32 i3 i2 i1 i0, counter := word32 c3 c2 c1 c0
            ceiling := word32 c3 c2 c1 c0 + 32, resync := none, mode := m, comfort := b, failures := 0
            verdict := .none, press := none })))))
    ∧ (∀ (dt : Time) (p : Port) (b : Byte) (k : SlotId) (s : State), Receiving s p → Admitted s p 5 → slotOf b = some k →
        s.ctx.ignition = .run → s.effSpeed = .standstill → (s.fobs.get k).state ≠ .empty →
        exec (.removeFob dt p [b]) s = .next (answered p 0x51 (Reply.of .ok)
          (let w := writeFob k ((atOwner dt p s).modFob k fun _ => Fob.reset)
           if s.follows k then releaseTracker w else w)))
    ∧ (∀ (dt : Time) (p : Port) (b : Byte) (k : SlotId) (s : State), Receiving s p → Admitted s p 5 → slotOf b = some k →
        s.ctx.ignition = .run → s.effSpeed = .standstill → (s.fobs.get k).state = .empty →
        exec (.removeFob dt p [b]) s = .next (answered p 0x51 (Reply.of .ok) (atOwner dt p s)))
    ∧ (∀ (dt : Time) (p : Port) (sb i3 i2 i1 i0 c3 c2 c1 c0 mb cb : Byte) (k : SlotId) (m : UnlockMode) (b : Bool) (s : State),
        Receiving s p → Admitted s p 5 → slotOf sb = some k → modeOf mb = some m → boolOf cb = some b →
        s.ctx.ignition = .run → s.effSpeed = .standstill →
        ((s.fobs.get k).enrolled = true →
          exec (.enrolFob dt p [sb, i3, i2, i1, i0, c3, c2, c1, c0, mb, cb]) s =
            .next (answered p 0x50 (Reply.of .slotInUse) (atOwner dt p s)))
        ∧ ((s.fobs.get k).enrolled = false → s.findFob (word32 i3 i2 i1 i0) ≠ none →
          exec (.enrolFob dt p [sb, i3, i2, i1, i0, c3, c2, c1, c0, mb, cb]) s =
            .next (answered p 0x50 (Reply.of .duplicate) (atOwner dt p s))))
    ∧ (∀ (k : SlotId) (s : State), let f := s.fobs.get k
        writeFob k s = storeWrite (Fin.ofNat 35 (5 + k.index)) (padBytes 13 (be32 f.ident ++ be32 f.ceiling ++
          [match f.state with | .empty => 0x00 | .active => 0x01 | .suspended => 0x02 | .invalid => 0xFF
           , match f.mode with | .selective => 0 | .global => 1, boolByte f.comfort])) s)
    ∧ (∀ s : State, releaseTracker s = (if s.tracker.held.any (·.comfort) = true then endComfort s else s).withTracker
        { s.tracker with held := none, eligible := false })

/-! ### Crash -/

/-- The crash line, its fall taken 1 ms before the clock at a measured low, the gap timeout taken with no low under
way, and a low from before the release of the last reset a fault (the model's readings, log 24), in STARTING, RUN and
PARK: a measured low, which wakes a part in PARK, with the gap before it judged from the last valid rising edge; its
end as a valid pulse, as the third pulse of a crash, as a pulse of another length or as a line fault; the fault after
100 ms of low, the gap's 12 ms, a glitch past them, recovery; a crash decoded in STARTING is held, and otherwise taken
at severity 0. The last rising edge is read whatever its value; with a count of 0 it is of no consequence (log 43). -/
def Obligations.CrashLineJudged : Prop :=
  (∀ (dt : Time) (s : State), s.sys.inReset = false → exec (.crashLineLowMeasured dt) s = .next (refreshPark
      (let u := advance dt (s.withPins { s.pins with crashLow := true })
       let fall := s.now + dt - msec 1
       let r := s.crash.lastRise
       if s.crash.line = .idle ∧ s.now + dt < s.crash.watchedFrom + msec 1 then u.withCrash { s.crash with line := .fault }
       else if s.crash.line = .idle then
         (wake u).withCrash { s.crash with
           line := .low, lowStart := fall
           count := if r + msec 8 ≤ fall ∧ fall ≤ r + msec 12 then s.crash.count else 0 }
       else u)))
    ∧ (∀ s : State, s.sys.mode ≠ .park → wake s = s)
    ∧ (∀ (dt : Time) (s : State), s.sys.inReset = false → exec (.crashLineLowEnd dt) s = .next (refreshPark
      (let u := advance dt (s.withPins { s.pins with crashLow := false })
       let len := s.now + dt - s.crash.lowStart
       if s.crash.line ≠ .low then u
       else if msec 100 ≤ len then u.withCrash { s.crash with line := .fault, count := 0 }
       else if len < msec 8 ∨ msec 12 < len then u.withCrash { s.crash with line := .idle, count := 0 }
       else if s.crash.count ≠ 2 then
         u.withCrash { s.crash with line := .idle, lastRise := s.now + dt, count := s.crash.count + 1 }
       else if s.sys.mode = .starting then
         u.withCrash { s.crash with line := .idle, lastRise := s.now + dt, count := 0, held := true }
       else (takeCrash none 0 (u.withCrash { s.crash with line := .idle, lastRise := s.now + dt, count := 0 })).1)))
    ∧ (∀ s : State, s.crash.line = .low →
        exec .crashLineFault s = .next (refreshPark ((reach (s.crash.lowStart + msec 100) s).withCrash
          { s.crash with line := .fault, count := 0 })))
      ∧ (∀ s : State, s.crash.line = .idle → 0 < s.crash.count →
          exec .crashGapTimeout s = .next (refreshPark
            ((reach (s.crash.lastRise + msec 12) s).withCrash { s.crash with count := 0 })))
      ∧ (∀ (dt : Time) (s : State), s.sys.inReset = false → exec (.crashLineGlitchEnd dt) s = .next (refreshPark
          (let u := advance dt (s.withPins { s.pins with crashLow := false })
           if s.crash.line = .idle ∧ 0 < s.crash.count ∧ s.crash.lastRise + msec 12 ≤ s.now + dt then
             u.withCrash { s.crash with count := 0 }
           else u)))
      ∧ (∀ (dt : Time) (s : State), s.sys.inReset = false → exec (.crashLineRecovery dt) s = .next (refreshPark
          (let u := advance dt (s.withPins { s.pins with crashLow := false })
           if s.crash.line = .fault then u.withCrash { s.crash with line := .idle, count := 0 } else u)))
      ∧ (∀ (dt : Time) (s : State), s.sys.inReset = false → s.sys.mode = .starting → s.crash.line = .low →
          s.crash.count = 2 → msec 8 ≤ s.now + dt - s.crash.lowStart → s.now + dt - s.crash.lowStart ≤ msec 12 →
          ∃ t, exec (.crashLineLowEnd dt) s = .next t ∧ t.crash.held = true ∧ t.crash.latched = s.crash.latched
            ∧ t.arb = s.arb)

/-- CRASH_NOTICE, and a crash taken from the line: with the latch clear, the latch is set with the severity and
written, CRASH_LATCHED is captured, the five latches get a class-4 unlock, a LOCK or DEADLOCK entry left behind a
running UNLOCK drive leaves with its groups overruled (the model's choice, log 38), the windows are withdrawn and then
revoked, youngest first, with one scan after (the model's order, log 16), search, comfort and feedback end, in that
order; with the latch set it raises the severity if higher, cancels auto-relock and unlocks the latches not UNLOCKED,
returning the part from PARK first (log 40). The other bytes of the STATE row are written as they stand (the model's
choice, log 46). -/
def Obligations.CrashNoticeTaken : Prop :=
  (∀ (dt : Time) (p : Port) (b : Byte) (s : State), Receiving s p → Admitted s p 6 → 1 ≤ b.toNat → b.toNat ≤ 3 →
     (s.crash.latched = false →
         exec (.crashNotice dt p [b]) s = .next
           (let u := (offer .crashLatched (setCrash true b.toNat (atOwner dt p s)))
            let x := runInternal { source := .crash, port := some p, cls := .crash, action := .crashUnlock
                                   members := Latch.list.map .lock, pattern := none }
              (u.withPresses { u.presses with relockDue := none })
            let v := dismissLocking .tg (dismissLocking .rr (dismissLocking .rl (dismissLocking .fr
              (dismissLocking .fl x.1))))
            answered p 0x60 { result := .ok, payload := [byteOf x.2] } (silence (crashAccess (crashWindows v)))))
       ∧ (s.crash.latched = true →
         exec (.crashNotice dt p [b]) s = .next
           (let x := furtherCrash (some p) b.toNat (atOwner dt p s)
            answered p 0x60 { result := .ok, payload := [byteOf x.2] } x.1)))
    ∧ (∀ (port : Option Port) (severity : Nat) (s : State), furtherCrash port severity s =
        (let u := if s.crash.severity < severity then setCrash true severity s else s
         let v := u.withPresses { u.presses with relockDue := none }
         let ms := (Latch.list.filter fun l => (v.latches.get l).state != .unlocked).map Actuator.lock
         if ms = [] then (v, 0)
         else runInternal { source := .crash, port := port, cls := .crash, action := .crashUnlock, members := ms
                            pattern := none } (wake v)))
    ∧ (∀ (l : Latch) (s : State),
        (∀ e, s.entry? (.lock l) = some e → (e.dir = .lock ∨ e.dir = .deadlock) → dismissLocking l s =
            scan (settleList e.act .overruled e.waiting (s.withArb { s.arb with
              queue := s.arb.queue.filter (·.act != e.act)
              seq := if (s.arb.queue.filter (·.act != e.act)).isEmpty then 0 else s.arb.seq })))
          ∧ ((∀ e, s.entry? (.lock l) = some e → e.dir ≠ .lock ∧ e.dir ≠ .deadlock) → dismissLocking l s = s))
    ∧ (∀ (latched : Bool) (severity : Nat) (s : State), setCrash latched severity s =
        storeWrite stateRow (((s.row stateRow).set 0 (if latched then 1 else 0)).set 1 (byteOf severity))
          (s.withCrash { s.crash with latched := latched, severity := severity }))
    ∧ (∀ s : State, ∃ t, silence (crashAccess s) = t ∧ t.feedback = { queue := [], playing := none }
        ∧ t.tracker.eligible = false ∧ (∀ h, t.tracker.held = some h → h.comfort = false)
        ∧ (s.search.state = .inFlight → t.search.state = .ended ∧ t.search.outcome = some .crash ∧ t.search.due = none)
        ∧ (s.search.state ≠ .inFlight → t.search = s.search))
    ∧ (∀ s : State, crashWindows s =
        (let u := crashWithdraw .w4 (crashWithdraw .w3 (crashWithdraw .w2 (crashWithdraw .w1 s)))
         scan ((u.youngestWindows.foldl (fun x w => revokeWindow w x) u).withComfort (Wins.all false))))
    ∧ (∀ (w : Win) (s : State),
        (s.entry? (.window w) = none →
            crashWithdraw w s = s.modWindow w fun r => { r with normPhase := .none })
          ∧ (s.entry? (.window w) ≠ none → ∃ t, crashWithdraw w s = t ∧ t.entry? (.window w) = none
            ∧ (t.windows.get w).run = (if (s.windows.get w).run = .queued then .stopped else (s.windows.get w).run)
            ∧ (t.windows.get w).normPhase = .none ∧ (t.windows.get w).mode = none ∧ (t.windows.get w).source = none
            ∧ t.events = s.events))
    ∧ (∀ (port : Option Port) (severity : Nat) (s : State),
        (s.crash.latched = true → takeCrash port severity s = furtherCrash port severity s)
          ∧ (s.crash.latched = false → takeCrash port severity s =
            (let u := offer .crashLatched (setCrash true severity s)
             let x := runInternal { source := .crash, port := port, cls := .crash, action := .crashUnlock
                                    members := Latch.list.map .lock, pattern := none }
               (u.withPresses { u.presses with relockDue := none })
             let v := dismissLocking .tg (dismissLocking .rr (dismissLocking .rl (dismissLocking .fr
               (dismissLocking .fl x.1))))
             (silence (crashAccess (crashWindows v)), x.2))))

/-- CRASH_CLEAR carries no payload; it is refused IGNITION_STATE unless the ignition is OFF; a clear latch is answered
OK and nothing changes; a set latch is cleared with severity 0, the STATE row is written, its other bytes as they
stand (the model's choice, log 46), and CRASH_CLEARED is captured. -/
def Obligations.CrashCleared : Prop :=
  ∀ (dt : Time) (p : Port) (payload : List Byte) (s : State), Receiving s p → Admitted s p 7 → payload.length ≤ 14 →
    exec (.crashClear dt p payload) s = .next
      (let u := atOwner dt p s
       if payload.length ≠ 0 then answered p 0x72 (Reply.of .badArgument) u
       else if s.ctx.ignition ≠ .off then answered p 0x72 (Reply.of .ignitionState) u
       else if s.crash.latched = false then answered p 0x72 (Reply.of .ok) u
       else answered p 0x72 (Reply.of .ok) (offer .crashCleared (storeWrite stateRow
         (((s.row stateRow).set 0 0).set 1 0) (u.withCrash { s.crash with latched := false, severity := 0 }))))

/-! ### Feedback and store -/

/-- A request on a full playback queue replaces the fourth entry, whatever plays; the head and the two entries behind
it, and the playback, are untouched. A request on a queue with room joins its tail; one on an empty queue begins at
once, and in STARTING it waits. -/
def Obligations.FullQueueReplacesTail : Prop :=
  (∀ (a b c d i : Fin 8) (s : State), s.feedback.queue = [a, b, c, d] →
    patternRequest i s = s.withFeedback { s.feedback with queue := [a, b, c, i] })
    ∧ (∀ (i : Fin 8) (s : State), s.feedback.queue ≠ [] → s.feedback.queue.length < 4 →
        patternRequest i s = s.withFeedback { s.feedback with queue := s.feedback.queue ++ [i] })
    ∧ (∀ (i : Fin 8) (s : State), s.feedback.queue = [] →
        let u := s.withFeedback { s.feedback with queue := [i] }
        (s.sys.mode = .starting → patternRequest i s = u)
          ∧ (s.sys.mode ≠ .starting → patternRequest i s = startPlayback u))

/-- The end of a playback phase: the next phase follows by the sequence of flashes and chirps, and after the last one
the head leaves and the next entry begins: with its first flash, the chirp number 0 until the first chirp (the model's
choice, log 43), or, without flashes, with its first chirp and the flash number 0 (log 43); an entry of duration 0
leaves at once. INDICATOR is active in FLASH_ON and SOUNDER in CHIRP_ON; the level of SOUNDER is high in the first
half-period of (n + 1) × 4 µs of a chirp and changes every half-period, and is low outside a chirp. -/
def Obligations.PatternPhaseEnds : Prop :=
  (∀ (pb : Playback) (s : State), s.feedback.playing = some pb →
      (∀ q, pb.next (max s.now pb.due) = some q →
        exec .patternPhaseEnd s =
          .next (refreshPark ((reach pb.due s).withFeedback { s.feedback with playing := some q })))
      ∧ (pb.next (max s.now pb.due) = none →
        exec .patternPhaseEnd s = .next (refreshPark
          (startPlayback ((reach pb.due s).withFeedback { s.feedback with queue := s.feedback.queue.tail })))))
    ∧ (∀ (pb : Playback) (t : Time),
        (pb.phase = .flashOn → pb.next t = some { pb with phase := .flashOff, due := t + pb.offTime })
        ∧ (pb.phase = .flashOff → pb.flash < pb.flashes →
          pb.next t = some { pb with phase := .flashOn, flash := pb.flash + 1, due := t + pb.onTime })
        ∧ (pb.phase = .flashOff → pb.flashes ≤ pb.flash → 0 < pb.chirps →
          pb.next t = some { pb with phase := .chirpOn, chirp := 1, due := t + msec 60 })
        ∧ (pb.phase = .chirpOn → pb.next t = some { pb with phase := .chirpOff, due := t + msec 60 })
        ∧ (pb.phase = .chirpOff → pb.chirp < pb.chirps →
          pb.next t = some { pb with phase := .chirpOn, chirp := pb.chirp + 1, due := t + msec 60 })
        ∧ (pb.phase = .flashOff → pb.flashes ≤ pb.flash → pb.chirps = 0 → pb.next t = none)
        ∧ (pb.phase = .chirpOff → pb.chirps ≤ pb.chirp → pb.next t = none))
    ∧ (∀ (i : Fin 8) (rest : List (Fin 8)) (s : State), s.feedback.queue = i :: rest → 0 < s.cfg.flashes i →
        startPlayback s = s.withFeedback
          { queue := i :: rest
            playing := some { phase := .flashOn, flash := 1, chirp := 0, flashes := s.cfg.flashes i
                              onTime := s.cfg.onTime i, offTime := s.cfg.offTime i, chirps := s.cfg.chirps i
                              divider := s.cfg.divider i, due := s.now + s.cfg.onTime i } })
    ∧ (∀ s : State, s.feedback.queue = [] → startPlayback s = s.withFeedback { queue := [], playing := none })
    ∧ (∀ (i : Fin 8) (rest : List (Fin 8)) (s : State), s.feedback.queue = i :: rest → s.cfg.flashes i = 0 →
        (0 < s.cfg.chirps i → startPlayback s = s.withFeedback
            { queue := i :: rest
              playing := some { phase := .chirpOn, flash := 0, chirp := 1, flashes := 0, onTime := s.cfg.onTime i
                                offTime := s.cfg.offTime i, chirps := s.cfg.chirps i, divider := s.cfg.divider i
                                due := s.now + msec 60 } })
          ∧ (s.cfg.chirps i = 0 → startPlayback s = startPlayback (s.withFeedback { s.feedback with queue := rest })))
    ∧ (∀ s : State, (s.indicator = true ↔ ∃ pb, s.feedback.playing = some pb ∧ pb.phase = .flashOn)
        ∧ (s.sounder = true ↔ ∃ pb, s.feedback.playing = some pb ∧ pb.phase = .chirpOn)
        ∧ (∀ pb, s.feedback.playing = some pb → pb.phase = .chirpOn → s.now < pb.due →
          (s.sounderLevel = true ↔ (s.now + msec 60 - pb.due) / ((pb.divider + 1) * 4) % 2 = 0))
        ∧ ((∀ pb, s.feedback.playing = some pb → pb.phase ≠ .chirpOn ∨ pb.due ≤ s.now) → s.sounderLevel = false))

/-- A program starts with the head of the store queue when none is in flight, the part is in STARTING or RUN and V_f
is at least 8000 mV, for 5 ms; it ends with its verify: on a match the row takes the generation; on a failure the
target is RETIRED, STORE_RETIRED is captured and the lowest FREE spare is programmed next, IN_USE as the row's current
row, with a generation one higher and 5 ms of its own; with no spare left the row becomes volatile, leaves the queue
and STORE_EXHAUSTED is captured. -/
def Obligations.RowProgramsRun : Prop :=
  (∀ (l : LRow) (rest : List LRow) (v : Nat) (s : State), s.sys.inReset = false → s.store.queue = l :: rest →
      s.store.program = none → s.sys.mode ≠ .park → s.supply.vf = some v → 8000 ≤ v →
      exec .rowProgramStart s = .next (refreshPark (s.withStore { s.store with
        queue := rest
        program := some { row := l, content := s.store.shadows[l].content
                          generation := s.store.shadows[l].generation + 1, target := s.store.shadows[l].current
                          due := s.now + msec 5 } })))
    ∧ (∀ s : State, s.sys.inReset = false → (s.store.queue = [] ∨ s.store.program ≠ none ∨ s.sys.mode = .park ∨
        s.supply.vf = none ∨ ∃ v, s.supply.vf = some v ∧ v < 8000) →
        exec .rowProgramStart s = .next (refreshPark s))
    ∧ (∀ (g : Program) (s : State), s.store.program = some g →
        exec (.rowProgramEnd none) s = .next (refreshPark ((reach g.due s).withStore { s.store with
          program := none
          array := s.store.array.set g.target (rowBytes g.row g.generation g.content)
          shadows := s.store.shadows.set g.row
            { s.store.shadows[g.row] with generation := g.generation, current := g.target } })))
      ∧ (∀ (g : Program) (x : PhysRow) (s : State), s.store.program = some g →
          x ≠ rowBytes g.row g.generation g.content →
          exec (.rowProgramEnd (some x)) s = .next (refreshPark
            (let u := offer .storeRetired ((reach g.due s).withStore { s.store with
               array := s.store.array.set g.target x, map := s.store.map.set g.target .retired })
             match freeSpare (s.store.map.set g.target .retired) with
             | some r => relocate g r u
             | none => exhaust g u)))
    ∧ (∀ m : Vector RowCond 48,
        (∀ r, freeSpare m = some r → m[r] = .free ∧ ∀ q : PRow, q < r → m[q] ≠ .free)
          ∧ (freeSpare m = none → ∀ q : PRow, m[q] ≠ .free))
    ∧ (∀ (g : Program) (r : PRow) (s : State), relocate g r s = s.withStore { s.store with
        map := s.store.map.set r .inUse
        shadows := s.store.shadows.set g.row { s.store.shadows[g.row] with current := r }
        program := some { row := g.row, content := g.content, generation := g.generation + 1, target := r
                          due := s.now + msec 5 } })
    ∧ (∀ (g : Program) (s : State), exhaust g s = offer .storeExhausted (s.withStore { s.store with
        program := none
        queue := s.store.queue.filter (· != g.row)
        shadows := s.store.shadows.set g.row { s.store.shadows[g.row] with isVolatile := true } }))

/-- A queued write of a row: the shadow takes the content at once; the row joins the tail of the store queue, unless
it waits there, and then keeps its place, or is volatile, and then has no entry. Outside PARK nothing else changes; in
PARK the write of a row that is not volatile returns the part to RUN first. A write of one byte of the STATE row
carries every other byte as it stands, one loaded outside its list included (the model's choice, log 46). -/
def Obligations.StoreWritesQueued : Prop :=
  (∀ (l : LRow) (c : Content) (s : State), s.sys.mode ≠ .park ∨ s.store.shadows[l].isVolatile = true →
      storeWrite l c s = s.withStore { s.store with
        shadows := s.store.shadows.set l { s.store.shadows[l] with content := c }
        queue := if s.store.shadows[l].isVolatile = true ∨ l ∈ s.store.queue then s.store.queue
                 else s.store.queue ++ [l] })
    ∧ (∀ (l : LRow) (c : Content) (s : State), s.sys.mode = .park → s.store.shadows[l].isVolatile = false →
        storeWrite l c s = storeWrite l c (wake s) ∧ (wake s).sys.mode = .run)
    ∧ (∀ (l m : LRow) (c : Content) (s : State), (storeWrite l c s).row l = c
        ∧ (m ≠ l → (storeWrite l c s).row m = s.row m)
        ∧ (storeWrite l c s).store.array = s.store.array ∧ (storeWrite l c s).store.program = s.store.program)
    ∧ (∀ (i : Fin 13) (b : Byte) (s : State), writeStateByte i b s = storeWrite 4 ((s.row 4).set i b) s)

/-- What a program writes is the logical row number, the generation, the content and the check byte over them, and is
read back by the scan as a claim on the same row with the same generation and content. The check byte starts from FFh,
takes each byte with eight shifts of polynomial 1Dh, and is inverted at the end. -/
def Obligations.RowsClaimed : Prop :=
  (∀ (l : LRow) (g : Byte) (c : Content), (rowBytes l g c).claim = some (l, g, c)
      ∧ rowBytes l g c = .bytes (byteOf l.val) g c (crc8 (byteOf l.val :: g :: c.toList)))
    ∧ crc8 [] = 0
    ∧ (∀ (l : List Byte) (b : Byte),
        let shift (r : Byte) : Byte := if r.getLsbD 7 = true then (r <<< 1) ^^^ 0x1D else r <<< 1
        crc8 (l ++ [b]) =
          shift (shift (shift (shift (shift (shift (shift (shift (crc8 l ^^^ 0xFF ^^^ b)))))))) ^^^ 0xFF)

/-- STAGE_CONFIG writes its data bytes to the staging image from its offset on, leaves the others, and answers their
number. COMMIT_CONFIG: a check byte that differs discards the staging image with CONFIG_REJECTED; one that matches
commits the limited image with the commit count one higher, CLAMPED when the limiting changed it, the clearing of
unused bits included (the model's choice, log 37). Both are refused MOVING. A commit closes the staging image, writes
rows 0 to 3 in order, makes the image live, captures CONFIG_COMMITTED and evaluates the rear inhibit when the link
flag changed. The limiting puts every field of section 9.6 within its range, keeps 0 for an auto-relock time of 0, and
keeps masks, dividers and the commit count. Each field of the image has the place and the unit of section 9.6. -/
def Obligations.ConfigStagedAndCommitted : Prop :=
  (∀ (dt : Time) (p : Port) (off : Byte) (data : List Byte) (s : State), Receiving s p → Admitted s p 7 →
     data.length ≤ 13 →
     exec (.stageConfig dt p (off :: data)) s = .next
       (let u := atOwner dt p s
        if data.length = 0 ∨ data.length = 13 ∨ 51 < off.toNat then answered p 0x70 (Reply.of .badArgument) u
        else if s.effSpeed = .moving then answered p 0x70 (Reply.of .moving) u
        else answered p 0x70 { result := .ok, payload := [byteOf (min data.length (52 - off.toNat))] }
          (u.withStore { s.store with staging := some (stageBytes (s.store.staging.getD s.cfg) off.toNat data) })))
    ∧ (∀ (dt : Time) (p : Port) (check : Byte) (s : State), Receiving s p → Admitted s p 7 → s.effSpeed = .standstill →
       let u := atOwner dt p s
       let img := s.store.staging.getD s.cfg
       let count := min 255 (s.cfg.commitCount + 1)
       (crc8 img.toList ≠ check →
           exec (.commitConfig dt p [check]) s = .next (answered p 0x71 (Reply.of .checkMismatch)
             (offer .configRejected (u.withStore { s.store with staging := none }))))
         ∧ (crc8 img.toList = check →
           exec (.commitConfig dt p [check]) s = .next (answered p 0x71
             { result := if img.limited = img then .ok else .clamped, payload := [byteOf count] }
             (commitImage (img.limited.withCount count) u))))
    ∧ (∀ (dt : Time) (p : Port) (check : Byte) (s : State), Receiving s p → Admitted s p 7 → s.effSpeed = .moving →
        exec (.commitConfig dt p [check]) s = .next (answered p 0x71 (Reply.of .moving) (atOwner dt p s)))
    ∧ (∀ (img : Image) (off i : Nat) (data : List Byte), i < 52 → (stageBytes img off data).toList.getD i 0 =
        if off ≤ i ∧ i < off + data.length then data.getD (i - off) 0 else img.toList.getD i 0)
    ∧ (∀ (img : Image) (s : State),
        let row (i : Nat) : Content := padBytes 13 ((img.toList.drop (13 * i)).take 13)
        let u := offer .configCommitted (storeWrite 3 (row 3) (storeWrite 2 (row 2) (storeWrite 1 (row 1) (storeWrite 0 (row 0)
          (s.withStore { s.store with staging := none })))))
        u.cfg = img
          ∧ (img.byte 1 / 2 % 2 = s.cfg.byte 1 / 2 % 2 → commitImage img s = u)
          ∧ (img.byte 1 / 2 % 2 ≠ s.cfg.byte 1 / 2 % 2 → commitImage img s = evalInhibits u))
    ∧ (∀ img : Image,
        let b (i : Nat) : Nat := img.byte i
        let v (i : Nat) : Nat := img.limited.byte i
        v 0 = b 0 / 64 * 64 + max 10 (min (b 0 % 64) 60) ∧ v 1 = max 2 (min (b 1 / 16 % 8) 6) * 16 + b 1 % 16
          ∧ v 3 = (if b 3 = 0 then 0 else max 15 (min (b 3) 120))
          ∧ v 6 * 256 + v 7 = max 256 (min (b 6 * 256 + b 7) 2047)
          ∧ (∀ x ∈ [(2, 20, 80), (4, 0, 60), (5, 4, 64), (8, 13, 77), (9, 25, 200), (10, 2, 128), (11, 40, 150), (12, 5, 50)
                    , (13, 0, 50), (14, 2, 60)], v x.1 = max x.2.1 (min (b x.1) x.2.2))
          ∧ (∀ i ∈ [15, 16, 17, 18, 51], v i = b i)
          ∧ (∀ i, i < 8 → v (19 + 4 * i) = b (19 + 4 * i) / 16 % 4 * 16 + b (19 + 4 * i) % 8
            ∧ v (20 + 4 * i) = max 5 (min (b (20 + 4 * i)) 50) ∧ v (21 + 4 * i) = max 5 (min (b (21 + 4 * i)) 50)
            ∧ v (22 + 4 * i) = b (22 + 4 * i)))
    ∧ (∀ img : Image,
        let b (i : Nat) : Nat := img.byte i
        img.lockDriveTime = msec (10 * (b 0 % 64)) ∧ img.retryCount = b 0 / 64
          ∧ (img.deadlockEnable = true ↔ b 1 % 2 = 1) ∧ (img.childLink = true ↔ b 1 / 2 % 2 = 1)
          ∧ (img.comfortEnable = true ↔ b 1 / 4 % 2 = 1) ∧ (img.passiveEnable = true ↔ b 1 / 8 % 2 = 1)
          ∧ img.nconf = b 1 / 16 % 8 ∧ img.releasePulse = msec (10 * b 2) ∧ img.relockTime = sec (b 3)
          ∧ img.retainedTime = sec (10 * b 4) ∧ img.pseal = b 5 ∧ img.pdetect = b 6 * 256 + b 7 ∧ img.kFactor = b 8
          ∧ img.reversalDistance = 4 * b 9 ∧ img.window = 8 * b 10 ∧ img.holdTime = msec (20 * b 11)
          ∧ img.searchTimeout = b 12 ∧ img.eventDelay = msec (b 13) ∧ img.parkDelay = sec (b 14)
          ∧ (∀ i, img.wakeBit i = true ↔ b 15 / 2 ^ i % 2 = 1)
          ∧ img.permission .body = b 16 ∧ img.permission .radio = b 17 ∧ img.permission .restraint = b 18
          ∧ img.commitCount = b 51)

/-! ### Ports, events and modes -/

/-- A falling edge of CS on an idle port starts reception and builds the response frame from the slot and the summary
byte, closed by the CRC of what stands before it; in PARK the part returns to RUN first (its WAKE shows in this
summary byte: the model's choice, log 40). A CS already active starts nothing (log 3), and in brown-out reset the pin
alone moves (log 4). SDO carries the frame as a byte list, then FFh, while CS is active, and nothing while it is not
(log 32). -/
def Obligations.ResponseBuilt : Prop :=
  (∀ (dt : Time) (p : Port) (s : State), Awake s → s.pins.cs.get p = false →
     ∃ t, exec (.chipSelectFall dt p) s = .next t ∧ (t.ports.get p).receiving = true ∧ t.pins.cs.get p = true
       ∧ (let slot := (s.ports.get p).slot
          let body := [(s.events.get p).summary, slot.echo, slot.result.code, byteOf slot.payload.length] ++ slot.payload
          (t.ports.get p).sdo = body ++ [crc8 body])
       ∧ (t.ports.get p).slot = (s.ports.get p).slot ∧ t.events = s.events ∧ t.store = s.store ∧ t.arb = s.arb
       ∧ ∀ q, q ≠ p → t.ports.get q = s.ports.get q)
    ∧ (∀ (dt : Time) (p : Port) (s : State), s.sys.inReset = false → s.pins.cs.get p = true →
        exec (.chipSelectFall dt p) s = .next (refreshPark (advance dt s)))
      ∧ (∀ (dt : Time) (p : Port) (s : State), s.sys.inReset = true →
          exec (.chipSelectFall dt p) s = .next ((advance dt s).withPins { s.pins with cs := s.pins.cs.set p true }))
      ∧ (∀ (dt : Time) (p : Port) (s : State), s.sys.inReset = false → s.sys.mode = .park → s.pins.cs.get p = false →
          exec (.chipSelectFall dt p) s = exec (.chipSelectFall 0 p) (wake (advance dt s)))
    ∧ (∀ (p : Port) (s : State),
        (s.pins.cs.get p = false → ∀ i, s.sdoByte p i = none)
          ∧ (s.pins.cs.get p = true → (s.ports.get p).receiving = true → ∀ i,
            (∀ h : i < (s.ports.get p).sdo.length, s.sdoByte p i = some ((s.ports.get p).sdo[i]'h))
              ∧ ((s.ports.get p).sdo.length ≤ i → s.sdoByte p i = some 0xFF))
          ∧ (∀ i n b, n < 8 → s.sdoByte p i = some b → s.sdoBit p (8 * i + n) = some (b.getLsbD (7 - n))))

/-- A request frame as sent, with any filler after it, is judged well formed and gives its code and payload; what is
judged well formed is such a frame; a pulse without an SCK edge, and no other, is no frame; a rising edge of SCK alone,
which samples no bit, makes a frame error. A frame that is not well formed, in RUN: the slot takes echo 00h and FRAME_ERROR,
captured on the port concerned alone; a pulse without an SCK edge changes nothing. In STARTING the slot takes STARTING with
the echo of a well-formed frame, and in brown-out reset a frame is lost while pins and clock move (the model's choice,
log 4). -/
def Obligations.FramesJudged : Prop :=
  ((∀ (code : Byte) (payload filler : List Byte), payload.length ≤ 14 →
      judgePulse (some ((requestBytes code payload ++ filler).flatMap bitsOfByte)) = .good code payload)
    ∧ (∀ (bits : List Bool) (code : Byte) (payload : List Byte), judgePulse (some bits) = .good code payload →
        payload.length ≤ 14 ∧ ∃ filler, bytesOfBits bits = requestBytes code payload ++ filler)
    ∧ (∀ sck : Option (List Bool), judgePulse sck = .noFrame ↔ sck = none)
    ∧ judgePulse (some []) = .error)
    ∧ ((∀ (dt : Time) (p : Port) (sck : Option (List Bool)) (s : State), Receiving s p → judgePulse sck = .error →
      exec (.frameError dt p sck) s = .next (answered p 0 (Reply.of .frameError)
        ((csRise p (advance dt s)).modEvents p fun r =>
          { r with captured := r.captured ||| (Ev.frameError.bit &&& r.mask) })))
    ∧ (∀ (dt : Time) (p : Port) (s : State), Receiving s p →
        exec (.frameError dt p none) s = .next (refreshPark (csRise p (advance dt s))))
    ∧ (∀ (dt : Time) (p : Port) (sck : Option (List Bool)) (s : State), s.sys.mode = .starting → s.sys.inReset = false →
        (s.ports.get p).receiving = true →
        (∀ c l, judgePulse sck = .good c l →
          exec (.frameInStarting dt p sck) s = .next (answered p c (Reply.of .starting) (csRise p (advance dt s))))
        ∧ (judgePulse sck = .error →
          exec (.frameInStarting dt p sck) s = .next (answered p 0 (Reply.of .starting) (csRise p (advance dt s)))))
    ∧ (∀ (dt : Time) (p : Port) (code : Byte) (payload : List Byte) (c : Instr) (s : State),
        RequestOf dt p payload code c → s.sys.mode = .starting → s.sys.inReset = false →
        (s.ports.get p).receiving = true → payload.length ≤ 14 →
        exec c s = .next (answered p code (Reply.of .starting) (csRise p (advance dt s))))
    ∧ (∀ (dt : Time) (p : Port) (code : Byte) (payload : List Byte) (c : Instr) (s : State),
        RequestOf dt p payload code c → s.sys.inReset = true →
        exec c s = .next ((advance dt s).withPins { s.pins with cs := s.pins.cs.set p false })))

/-- Permissions: G0 is open to every port, CRASH_NOTICE to the restraint port and configuration not, the rest by the
mask bytes; a request whose group is not permitted is refused NOT_PERMITTED and one with an unknown code
UNKNOWN_REQUEST, with an empty payload and no effect. A payload of another length, or with a byte outside its list, is
refused BAD_ARGUMENT and changes nothing: for REAR_INHIBIT, TAILGATE_RELEASE, WINDOW_REQUEST, NORMALIZE_WINDOW,
ACCESS_TELEGRAM (button, repeat index), SEARCH_RESULT (outcome, inside, zone), the five fob administration requests
(slot, mode, comfort) and CRASH_NOTICE; by length for NOP, READ_STATUS, CLEAR_EVENTS, SET_EVENT_ENABLE, READ_SEARCH,
COMMIT_CONFIG and RESTART. -/
def Obligations.RequestsChecked : Prop :=
  ((∀ (p : Port) (s : State), s.permitted p 0 = true ∧ s.permitted .restraint 6 = true ∧ s.permitted .restraint 7 = false)
    ∧ (∀ (g : Nat) (s : State), 1 ≤ g → g ≤ 7 → (s.permitted .body g = true ↔ s.cfg.byte 16 / 2 ^ g % 2 = 1)
        ∧ (s.permitted .radio g = true ↔ s.cfg.byte 17 / 2 ^ g % 2 = 1)
        ∧ (g ≤ 5 → (s.permitted .restraint g = true ↔ s.cfg.byte 18 / 2 ^ g % 2 = 1)))
    ∧ (∀ (dt : Time) (p : Port) (code : Byte) (payload : List Byte) (c : Instr) (s : State),
        RequestOf dt p payload code c → Receiving s p → payload.length ≤ 14 →
        s.permitted p (code.toNat / 16) = false →
        exec c s = .next (answered p code (Reply.of .notPermitted) (atOwner dt p s)))
    ∧ (∀ (dt : Time) (p : Port) (code : Byte) (payload : List Byte) (s : State), Receiving s p → payload.length ≤ 14 →
        code ∉ knownCodes →
        exec (.unknownRequest dt p code payload) s =
          .next (answered p code (Reply.of .unknownRequest) (atOwner dt p s))))
    ∧ (∀ (dt : Time) (p : Port) (l : List Byte) (s : State), Receiving s p → l.length ≤ 14 →
    let bad (code : Byte) : Out := .next (answered p code (Reply.of .badArgument) (atOwner dt p s))
    (Admitted s p 0 → (l.length ≠ 0 → exec (.nop dt p l) s = bad 0x00)
        ∧ (l.length ≠ 2 → exec (.readStatus dt p l) s = bad 0x01)
        ∧ (l.length ≠ 4 → exec (.clearEvents dt p l) s = bad 0x02 ∧ exec (.setEventEnable dt p l) s = bad 0x03))
      ∧ (Admitted s p 2 →
        ((∀ b, l = [b] → 1 < b.toNat) →
          exec (.rearInhibit dt p l) s = bad 0x22 ∧ exec (.tailgateRelease dt p l) s = bad 0x23))
      ∧ (Admitted s p 3 →
        ((∀ b a, l = [b, a] → 3 < b.toNat ∨ 2 < a.toNat) → (∀ b a x y, l = [b, a, x, y] → 3 < b.toNat ∨ a ≠ 3) →
          exec (.windowRequest dt p l) s = bad 0x30)
        ∧ ((∀ b, l = [b] → 3 < b.toNat) → exec (.normalizeWindow dt p l) s = bad 0x31))
      ∧ (Admitted s p 4 →
        ((∀ i3 i2 i1 i0 c3 c2 c1 c0 b n, l = [i3, i2, i1, i0, c3, c2, c1, c0, b, n] → 2 < b.toNat ∨ 15 < n.toNat) →
          exec (.accessTelegram dt p l) s = bad 0x40)
        ∧ (l.length ≠ 0 → exec (.readSearch dt p l) s = bad 0x41)
        ∧ ((∀ q o x, l = [q, o, x] → o ≠ 1 ∨ 1 < x.toNat) →
          (∀ q o x i3 i2 i1 i0 z, l = [q, o, x, i3, i2, i1, i0, z] → o ≠ 0 ∨ 1 < x.toNat ∨ 3 < z.toNat) →
          exec (.searchResult dt p l) s = bad 0x42))
      ∧ (Admitted s p 5 →
        ((∀ k i3 i2 i1 i0 c3 c2 c1 c0 m x, l = [k, i3, i2, i1, i0, c3, c2, c1, c0, m, x] →
            5 < k.toNat ∨ 1 < m.toNat ∨ 1 < x.toNat) → exec (.enrolFob dt p l) s = bad 0x50)
        ∧ ((∀ b, l = [b] → 5 < b.toNat) → exec (.removeFob dt p l) s = bad 0x51
          ∧ exec (.suspendFob dt p l) s = bad 0x52 ∧ exec (.reinstateFob dt p l) s = bad 0x53)
        ∧ ((∀ k m x, l = [k, m, x] → 5 < k.toNat ∨ 1 < m.toNat ∨ 1 < x.toNat) →
          exec (.setFobMode dt p l) s = bad 0x54))
      ∧ (Admitted s p 6 →
        ((∀ b, l = [b] → b.toNat = 0 ∨ 3 < b.toNat) → exec (.crashNotice dt p l) s = bad 0x60))
      ∧ (Admitted s p 7 → (l.length ≠ 1 → exec (.commitConfig dt p l) s = bad 0x71)
        ∧ (l.length ≠ 0 → exec (.restart dt p l) s = bad 0x73)))

/-- NOP answers OK and changes nothing; READ_STATUS answers the record named as it stands, and BAD_ARGUMENT for a kind
above 9 or an index its kind does not have. CLEAR_EVENTS clears the captured kinds of its mask on its own port and
starts the delay timer; SET_EVENT_ENABLE writes the mask there without the unused bits; the delay timer's expiry stops
it. The status records are laid out byte by byte as section 10.5 lists them. Each event kind has its bit, and is
captured on every port under its mask, in PARK after the return to RUN; the attention line is active while a kind is
both captured and enabled and the delay timer is stopped; each bit of the summary byte shows whether a kind of its
group is. -/
def Obligations.StatusAndEventsServed : Prop :=
  (∀ (dt : Time) (p : Port) (s : State), Receiving s p →
      exec (.nop dt p []) s = .next (answered p 0x00 (Reply.of .ok) (atOwner dt p s)))
    ∧ (∀ (dt : Time) (p : Port) (kind index : Byte) (bytes : List Byte) (s : State), Receiving s p →
        (atOwner dt p s).status p kind.toNat index.toNat = some bytes →
        exec (.readStatus dt p [kind, index]) s =
          .next (answered p 0x01 { result := .ok, payload := bytes } (atOwner dt p s)))
    ∧ (∀ (dt : Time) (p : Port) (kind index : Byte) (s : State), Receiving s p →
        (9 < kind.toNat ∨ 5 < index.toNat ∨ 4 ≤ kind.toNat ∧ kind.toNat ≤ 8 ∧ 0 < index.toNat
          ∨ kind = 0 ∧ 4 < index.toNat ∨ kind = 1 ∧ 1 < index.toNat ∨ (kind = 2 ∨ kind = 9) ∧ 3 < index.toNat) →
        exec (.readStatus dt p [kind, index]) s = .next (answered p 0x01 (Reply.of .badArgument) (atOwner dt p s)))
    ∧ (∀ (dt : Time) (p : Port) (a b c d : Byte) (s : State), Receiving s p →
        exec (.clearEvents dt p [a, b, c, d]) s = .next (answered p 0x02 (Reply.of .ok) ((atOwner dt p s).modEvents p fun r =>
          { r with captured := r.captured &&& ~~~(word32 a b c d &&& 0x0FFFFFFF#32)
                   delayDue := if s.cfg.eventDelay = 0 then none else some (s.now + dt + s.cfg.eventDelay) })))
      ∧ (∀ (dt : Time) (p : Port) (a b c d : Byte) (s : State), Receiving s p →
          exec (.setEventEnable dt p [a, b, c, d]) s = .next (answered p 0x03 (Reply.of .ok)
            ((atOwner dt p s).modEvents p fun r => { r with mask := word32 a b c d &&& 0x0FFFFFFF#32 })))
      ∧ (∀ (p : Port) (d : Time) (s : State), (s.events.get p).delayDue = some d →
          exec (.eventDelayExpiry p) s = .next (refreshPark ((reach d s).modEvents p fun r => { r with delayDue := none })))
    ∧ (∀ (p : Port) (n : Nat) (l : Latch) (s : State), Latch.list[n]? = some l →
        ∃ bytes, s.status p 0 n = some bytes ∧ bytes.length = 11 ∧
          (let b (i : Nat) : Byte := bytes.getD i 0
           let r := s.latches.get l
           [LatchState.unlocked, .locked, .deadlocked][(b 0).toNat]? = some r.state
             ∧ [Ajar.closed, .opened][(b 1).toNat]? = some r.ajar
             ∧ [LockPos.unlocked, .locked][(b 2).toNat]? = some r.position
             ∧ [Phase.idle, .queued, .driving, .settling][(b 3).toNat]? = some (s.phase (.lock l))
             ∧ b 4 = byteOf r.attempts
             ∧ [DriveFault.none, .noConfirm, .openLoad, .short][(b 5).toNat]? = some r.fault
             ∧ b 6 = byteOf r.heat ∧ b 7 = boolByte r.hot
             ∧ (l ≠ .tg → b 8 = 0 ∧ b 9 = 0 ∧ b 10 = 0)
             ∧ (l = .tg → b 8 = (if s.drive? .release ≠ none then 2 else if s.entry? .release ≠ none then 1 else 0)
               ∧ b 9 = boolByte s.release.watchDue.isSome
               ∧ [ReleaseOutcome.none, .opened, .noOpen, .openLoad, .short][(b 10).toNat]? = some s.release.last)))
    ∧ (∀ (p : Port) (n : Nat) (c : Side) (s : State), Side.list[n]? = some c →
        ∃ bytes, s.status p 1 n = some bytes ∧ bytes.length = 8 ∧
          (let b (i : Nat) : Byte := bytes.getD i 0
           let r := s.child.recs.get c
           [ChildPos.disengaged, .engaged][(b 0).toNat]? = some r.state
             ∧ [ChildPos.disengaged, .engaged][(b 1).toNat]? = some r.position
             ∧ [Phase.idle, .queued, .driving, .settling][(b 2).toNat]? = some (s.phase (.child c))
             ∧ b 3 = byteOf r.attempts
             ∧ [DriveFault.none, .noConfirm, .openLoad, .short][(b 4).toNat]? = some r.fault
             ∧ b 5 = boolByte s.child.rearInhibit ∧ b 6 = boolByte s.cfg.childLink
             ∧ b 7 = boolByte (s.child.effective.get c)))
    ∧ (∀ (p : Port) (n : Nat) (w : Win) (s : State), Win.list[n]? = some w →
        ∃ bytes, s.status p 2 n = some bytes ∧ bytes.length = 13 ∧
          (let b (i : Nat) : Byte := bytes.getD i 0
           let r := s.windows.get w
           let v := (s.pinch.get w).rev
           let stops := [StopCause.none, .target, .released, .stopRequest, .top, .bottom, .pinch, .blocked, .revoked
                         , .timeout, .hallFault, .crash, .overcurrent]
           let sources := [none, some Source.switchDriver, some .switchLocal, some .bodyPort, some .radioPort
                           , some .restraintPort, some .comfort, some .normalize]
           [RunState.stopped, .queued, .runUp, .runDown, .brake, .reversing, .faulted][(b 0).toNat % 8]? = some r.run
             ∧ [Norm.unlearned, .positionLost, .learned][(b 0).toNat / 8 % 4]? = some r.norm
             ∧ [NormPhase.none, .normUp, .normDown][(b 0).toNat / 32 % 4]? = some r.normPhase
             ∧ (b 0).toNat / 128 = r.restricted.toNat
             ∧ (r.p < 65536 → nat16 (b 1) (b 2) = r.p)
             ∧ (r.pmax.getD 0 < 65536 → nat16 (b 3) (b 4) = r.pmax.getD 0)
             ∧ (r.source ∈ sources → r.cls ≠ some .crash →
               (b 5).toNat % 4 = (match r.mode with | none => 0 | some .manual => 1 | some .auto => 2 | some (.target _) => 3)
                 ∧ sources[(b 5).toNat / 4 % 8]? = some r.source
                 ∧ [none, some Cls.comfort, some .access, some .occupant][(b 5).toNat / 32]? = some r.cls)
             ∧ (∀ t, r.mode = some (.target t) → t < 65536 → nat16 (b 6) (b 7) = t)
             ∧ ((∀ t, r.mode ≠ some (.target t)) → b 6 = 0 ∧ b 7 = 0)
             ∧ (r.reversals < 4 → (b 8).toNat % 4 = r.reversals
               ∧ [WFault.none, .hallFault, .overcurrent, .normFailed][(b 8).toNat / 4 % 4]? = some r.fault
               ∧ [RevOutcome.none, .complete, .interrupted][(b 8).toNat / 16]? = some v.outcome)
             ∧ stops[(b 9).toNat]? = some r.lastStop ∧ stops[(b 12).toNat]? = some v.cause
             ∧ (r.lastPinch.getD 0xFFFF < 65536 → nat16 (b 10) (b 11) = r.lastPinch.getD 0xFFFF)))
    ∧ (∀ (p : Port) (n : Nat) (k : SlotId) (s : State), SlotId.list[n]? = some k →
        ∃ bytes, s.status p 3 n = some bytes ∧ bytes.length = 8 ∧
          (let b (i : Nat) : Byte := bytes.getD i 0
           let f := s.fobs.get k
           word32 (b 0) (b 1) (b 2) (b 3) = (if f.enrolled then f.ident else 0)
             ∧ b 4 = (match f.state with | .empty => 0x00 | .active => 0x01 | .suspended => 0x02 | .invalid => 0xFF)
             ∧ [UnlockMode.selective, .global][(b 5).toNat]? = some f.mode ∧ b 6 = byteOf f.failures
             ∧ [Verdict.none, .accepted, .resynced, .repeated, .stale, .resyncPending, .suspended][(b 7).toNat]? =
               some f.verdict))
    ∧ (∀ (p : Port) (s : State), ∃ bytes, s.status p 4 0 = some bytes ∧ bytes.length = 10 ∧
        (let b (i : Nat) : Byte := bytes.getD i 0
         let r := s.search
         [SearchState.none, .inFlight, .ended][(b 0).toNat]? = some r.state ∧ b 1 = r.seq
           ∧ [Origin.flUnlock, .flLock, .frUnlock, .frLock, .tg][(b 2).toNat]? = r.origin
           ∧ (r.origin = none → b 2 = 0xFF) ∧ b 3 = (match r.timeout with | none => 0xFF | some t => byteOf t)
           ∧ [SearchOutcome.found, .notFound, .timeout, .crash][(b 4).toNat]? = r.outcome
           ∧ (r.outcome = none → b 4 = 0xFF)
           ∧ SlotId.list[(b 5).toNat]? = r.slot ∧ (r.slot = none → b 5 = 0xFF)
           ∧ [Zone.outsideFL, .outsideFR, .outsideRear, .inside][(b 6).toNat]? = r.zone ∧ (r.zone = none → b 6 = 0xFF)
           ∧ [false, true][(b 7).toNat]? = r.inside ∧ (r.inside = none → b 7 = 0xFF)
           ∧ b 8 = (match r.action with
               | .none => 0xF0 | .noFob => 0xF1 | .zoneMismatch => 0xF2 | .keyInside => 0xF3 | .code x => x.code)
           ∧ b 9 = byteOf r.group))
    ∧ (∀ (p : Port) (s : State), s.groups.last.get p = none → s.status p 5 0 = some [0, 0, 0, 0, 0, 0, 0, 0xFF])
    ∧ (∀ (p : Port) (g : Group) (s : State), s.groups.last.get p = some g →
        ∃ bytes, s.status p 5 0 = some bytes ∧ bytes.length = 8 ∧
          (let b (i : Nat) : Byte := bytes.getD i 0
           let sources := [Source.bodyPort, .fob, .passive, .keyCylinder, .centralButton, .autoRelock, .ignition, .crash
                           , .childButton]
           let set (x : Byte) (l : List Actuator) : Prop := l.Nodup → ∀ i, i < 8 →
             (x.getLsbD i = true ↔ ∃ a ∈ l, (Latch.list.map .lock ++ Side.list.map .child)[i]? = some a)
           b 0 = byteOf g.id ∧ (g.source ∈ sources → sources[(b 1).toNat]? = some g.source)
             ∧ [none, some Cls.comfort, some .access, some .occupant, some .crash][(b 2).toNat]? = some (some g.cls)
             ∧ [Action.lockAll, .unlockAll, .unlockDriver, .unlockDoor, .deadlockAll, .lockTg, .unlockTg, .crashUnlock
                , .childEngage, .childDisengage][(b 3).toNat]? = some g.action
             ∧ set (b 4) g.members ∧ set (b 5) g.failed ∧ set (b 6) g.overruled
             ∧ b 7 = (match g.pattern with | none => 0xFF | some i => byteOf i.val)))
    ∧ (∀ (p : Port) (s : State), ∃ bytes, s.status p 6 0 = some bytes ∧ bytes.length = 6 ∧
        (let b (i : Nat) : Byte := bytes.getD i 0
         (s.supply.vf.getD 0 < 65536 → nat16 (b 0) (b 1) = s.supply.vf.getD 0)
           ∧ [Band.normal, .under, .over][(b 2).toNat]? = some s.supply.band ∧ b 3 = byteOf s.supply.budget
           ∧ b 4 = byteOf (s.arb.running.map fun d => actCost d.act).sum
           ∧ b 5 = byteOf (4 * (s.arb.running.filter fun d => actIsWindow d.act).length)))
    ∧ (∀ (p : Port) (s : State), s.status p 7 0 = some
        [byteOf s.store.queue.length, byteOf (s.store.map.toList.countP (· == .free)), s.cfg[51]
         , byteOf (s.store.shadows.toList.countP (·.isVolatile)), boolByte s.store.program.isSome])
    ∧ (∀ (p : Port) (s : State), ∃ bytes, s.status p 8 0 = some bytes ∧ bytes.length = 11 ∧
        (let b (i : Nat) : Byte := bytes.getD i 0
         [Mode.starting, .run, .park][(b 0).toNat]? = some s.sys.mode
           ∧ [ResetCause.powerOn, .brownOut, .restart][(b 1).toNat]? = some s.sys.cause
           ∧ b 2 = boolByte s.crash.latched ∧ b 3 = byteOf s.crash.severity
           ∧ b 4 = (if s.crash.line = .fault then 1 else 0)
           ∧ [Ignition.off, .acc, .run][(b 5).toNat]? = some s.ctx.ignition
           ∧ [Speed.standstill, .moving][(b 6).toNat]? = some s.ctx.speed ∧ b 7 = boolByte s.ctx.fresh
           ∧ [DriverSide.left, .right][(b 8).toNat]? = some s.sys.dside ∧ b 9 = boolByte s.ctx.retainedDue.isSome
           ∧ b 10 = boolByte s.sys.restartPending))
    ∧ (∀ (p : Port) (i : Nat) (s : State), i < 4 → s.status p 9 i = some ((s.cfg.toList.drop (13 * i)).take 13))
    ∧ (∀ r : EventRec,
        (r.attention = true ↔ r.captured &&& r.mask ≠ 0 ∧ r.delayDue = none)
          ∧ ∀ g lo hi, (g, lo, hi) ∈ [(0, 0, 3), (1, 4, 8), (2, 9, 13), (3, 14, 18), (4, 19, 20), (5, 21, 21), (6, 22, 26)
                                      , (7, 27, 27)] →
            (r.summary.getLsbD g = true ↔ ∃ n, lo ≤ n ∧ n ≤ hi ∧ (r.captured &&& r.mask).getLsbD n = true))
    ∧ (∀ (n : Nat) (e : Ev),
        [Ev.powerOn, .wake, .parkBlocked, .contextStale, .lockChanged, .lockFault, .childChanged, .childFault, .thermalHold
         , .windowStopped, .pinchReversal, .windowFault, .normalizationChanged, .driveRevoked, .telegramAccepted
         , .telegramRejected, .searchPending, .searchEnded, .keyInside, .crashLatched, .crashCleared, .supplyBand
         , .storeRetired, .storeExhausted, .recordLost, .configCommitted, .configRejected, .frameError][n]? = some e →
        e.bit = 1#32 <<< n)
    ∧ (∀ (e : Ev) (s : State),
        (s.sys.mode ≠ .park → offer e s = s.withEvents (offer e s).events)
          ∧ (s.sys.mode ≠ .park → ∀ p : Port, (offer e s).events.get p =
            { s.events.get p with captured := (s.events.get p).captured ||| (e.bit &&& (s.events.get p).mask) })
          ∧ (s.sys.mode = .park → offer e s = offer e (wake s)))

/-- RESTART: refused IGNITION_STATE unless the ignition is OFF and BUSY while the arbiter holds anything; otherwise
the part enters restart pending, in which every request outside G0 but RESTART is refused BUSY, LOCK_REQUEST and
CHILD_LOCK with group id 0 and the others with an empty payload (for ACCESS_TELEGRAM the model's reading, log 33). The
idle timer starts with the park delay when all the park conditions hold and it is stopped, runs on or stays at its
limit while they hold, and is stopped when one fails; at its end the part enters PARK with samples every 100 ms from
the entry on (log 36), or captures PARK_BLOCKED when no wake bit is set. -/
def Obligations.RestartAndPark : Prop :=
  (∀ (dt : Time) (p : Port) (s : State), Receiving s p → s.permitted p 7 = true →
      exec (.restart dt p []) s = .next
        (let u := atOwner dt p s
         if s.sys.restartPending then answered p 0x73 (Reply.of .ok) u
         else if s.ctx.ignition ≠ .off then answered p 0x73 (Reply.of .ignitionState) u
         else if s.arb.queue = [] ∧ s.arb.running = [] ∧ s.arb.holds = [] then
           answered p 0x73 (Reply.of .ok) (u.withSys { s.sys with restartPending := true })
         else answered p 0x73 (Reply.of .busy) u))
    ∧ (∀ (dt : Time) (p : Port) (code : Byte) (payload : List Byte) (c : Instr) (s : State),
        RequestOf dt p payload code c → Receiving s p → payload.length ≤ 14 →
        s.permitted p (code.toNat / 16) = true → s.sys.restartPending = true → 16 ≤ code.toNat → code ≠ 0x73 →
        exec c s = .next (answered p code
          { result := .busy, payload := if code = 0x20 ∨ code = 0x21 then [0] else [] } (atOwner dt p s)))
    ∧ (∀ (d : Time) (s : State), s.sys.park = .running d →
       ((∃ i, i < 6 ∧ s.cfg.wakeBit i = true) → ∃ t, exec .parkIdleExpiry s = .next t
           ∧ t.sys.mode = .park ∧ t.supply.sampleDue = max s.now d + msec 100 ∧ t.events = s.events ∧ t.stages = s.stages)
         ∧ ((∀ i, i < 6 → s.cfg.wakeBit i = false) →
           exec .parkIdleExpiry s = .next (refreshPark (offer .parkBlocked
             ((reach d s).withSys { s.sys with park := .atLimit })))))
    -- the park conditions and the idle timer
    ∧ (∀ s : State, s.parkConditions = true ↔
        s.sys.mode = .run ∧ s.ctx.ignition = .off ∧ s.ctx.retainedDue = none
          ∧ s.arb.queue = [] ∧ s.arb.running = [] ∧ s.arb.holds = [] ∧ s.groups.entries = []
          ∧ s.search.state ≠ .inFlight ∧ (∀ h, s.tracker.held = some h → h.comfort = false)
          ∧ s.presses.relockDue = none ∧ s.release.watchDue = none ∧ s.store.queue = [] ∧ s.store.program = none
          ∧ s.feedback.queue = [] ∧ (∀ p : Port, (s.events.get p).captured &&& (s.events.get p).mask = 0)
          ∧ (∀ p : Port, s.pins.cs.get p = false) ∧ s.sys.restartPending = false)
    ∧ (∀ s : State,
        (s.parkConditions = true → s.sys.park = .stopped →
            refreshPark s = s.withSys { s.sys with park := .running (s.now + sec (s.cfg.byte 14)) })
          ∧ (s.parkConditions = true → s.sys.park ≠ .stopped → refreshPark s = s)
          ∧ (s.parkConditions = false → refreshPark s = s.withSys { s.sys with park := .stopped }))
    ∧ (∀ s : State, (∀ d, s.sys.park ≠ .running d) → exec .parkIdleExpiry s = .next s)
end

