-- ==== Sys2Proof/Laws/State.lean ====
section
/-! SUPPORT. What each block of the state is after each named update: one lemma per block per update, and reading a cell of a
table after writing one. -/

namespace Sys2Proof

@[simp] theorem Doors.get_set_self {α : Type} (t : Doors α) (k : Latch) (x : α) : (t.set k x).get k = x := by
  cases k <;> rfl

theorem Doors.get_set_ne {α : Type} (t : Doors α) {k j : Latch} (x : α) (h : j ≠ k) : (t.set k x).get j = t.get j := by
  cases k <;> cases j <;> first | rfl | exact absurd rfl h

theorem Doors.get_set {α : Type} (t : Doors α) (k j : Latch) (x : α) :
    (t.set k x).get j = if j = k then x else t.get j := by
  cases k <;> cases j <;> rfl

@[simp] theorem Doors.get_all {α : Type} (k : Latch) (x : α) : (Doors.all x).get k = x := by
  cases k <;> rfl

@[simp] theorem Sides.get_set_self {α : Type} (t : Sides α) (k : Side) (x : α) : (t.set k x).get k = x := by
  cases k <;> rfl

theorem Sides.get_set_ne {α : Type} (t : Sides α) {k j : Side} (x : α) (h : j ≠ k) : (t.set k x).get j = t.get j := by
  cases k <;> cases j <;> first | rfl | exact absurd rfl h

theorem Sides.get_set {α : Type} (t : Sides α) (k j : Side) (x : α) :
    (t.set k x).get j = if j = k then x else t.get j := by
  cases k <;> cases j <;> rfl

@[simp] theorem Sides.get_all {α : Type} (k : Side) (x : α) : (Sides.all x).get k = x := by
  cases k <;> rfl

@[simp] theorem Wins.get_set_self {α : Type} (t : Wins α) (k : Win) (x : α) : (t.set k x).get k = x := by
  cases k <;> rfl

theorem Wins.get_set_ne {α : Type} (t : Wins α) {k j : Win} (x : α) (h : j ≠ k) : (t.set k x).get j = t.get j := by
  cases k <;> cases j <;> first | rfl | exact absurd rfl h

theorem Wins.get_set {α : Type} (t : Wins α) (k j : Win) (x : α) :
    (t.set k x).get j = if j = k then x else t.get j := by
  cases k <;> cases j <;> rfl

@[simp] theorem Wins.get_all {α : Type} (k : Win) (x : α) : (Wins.all x).get k = x := by
  cases k <;> rfl

@[simp] theorem Ports.get_set_self {α : Type} (t : Ports α) (k : Port) (x : α) : (t.set k x).get k = x := by
  cases k <;> rfl

theorem Ports.get_set_ne {α : Type} (t : Ports α) {k j : Port} (x : α) (h : j ≠ k) : (t.set k x).get j = t.get j := by
  cases k <;> cases j <;> first | rfl | exact absurd rfl h

theorem Ports.get_set {α : Type} (t : Ports α) (k j : Port) (x : α) :
    (t.set k x).get j = if j = k then x else t.get j := by
  cases k <;> cases j <;> rfl

@[simp] theorem Ports.get_all {α : Type} (k : Port) (x : α) : (Ports.all x).get k = x := by
  cases k <;> rfl

@[simp] theorem Slots.get_set_self {α : Type} (t : Slots α) (k : SlotId) (x : α) : (t.set k x).get k = x := by
  cases k <;> rfl

theorem Slots.get_set_ne {α : Type} (t : Slots α) {k j : SlotId} (x : α) (h : j ≠ k) : (t.set k x).get j = t.get j := by
  cases k <;> cases j <;> first | rfl | exact absurd rfl h

theorem Slots.get_set {α : Type} (t : Slots α) (k j : SlotId) (x : α) :
    (t.set k x).get j = if j = k then x else t.get j := by
  cases k <;> cases j <;> rfl

@[simp] theorem Slots.get_all {α : Type} (k : SlotId) (x : α) : (Slots.all x).get k = x := by
  cases k <;> rfl

theorem Chans.get_set {α : Type} (t : Chans α) (k j : Chan) (x : α) :
    (t.set k x).get j = if j = k then x else t.get j := by
  cases k <;> cases j <;> simp [Chans.set, Chans.get, Wins.get_set]

@[simp] theorem Chans.get_set_self {α : Type} (t : Chans α) (k : Chan) (x : α) : (t.set k x).get k = x := by
  simp [Chans.get_set]

theorem Chans.get_set_ne {α : Type} (t : Chans α) {k j : Chan} (x : α) (h : j ≠ k) : (t.set k x).get j = t.get j := by
  simp [Chans.get_set, h]

namespace Machine

theorem Stages.get_set (t : Stages) (a b : Actuator) (x : Stage) :
    (t.set a x).get b = if b = a then x else t.get b := by
  cases a <;> cases b <;> simp [Stages.set, Stages.get, Doors.get_set, Sides.get_set, Wins.get_set]

@[simp] theorem Stages.get_set_self (t : Stages) (a : Actuator) (x : Stage) : (t.set a x).get a = x := by
  simp [Stages.get_set]

theorem Stages.get_set_ne (t : Stages) {a b : Actuator} (x : Stage) (h : b ≠ a) : (t.set a x).get b = t.get b := by
  simp [Stages.get_set, h]

namespace State

@[simp] theorem withPending_pending (s : State) (x : List Instr) : (s.withPending x).pending = x := rfl
@[simp] theorem withPending_now (s : State) (x : List Instr) : (s.withPending x).now = s.now := rfl
@[simp] theorem withPending_pins (s : State) (x : List Instr) : (s.withPending x).pins = s.pins := rfl
@[simp] theorem withPending_sys (s : State) (x : List Instr) : (s.withPending x).sys = s.sys := rfl
@[simp] theorem withPending_supply (s : State) (x : List Instr) : (s.withPending x).supply = s.supply := rfl
@[simp] theorem withPending_ctx (s : State) (x : List Instr) : (s.withPending x).ctx = s.ctx := rfl
@[simp] theorem withPending_arb (s : State) (x : List Instr) : (s.withPending x).arb = s.arb := rfl
@[simp] theorem withPending_stages (s : State) (x : List Instr) : (s.withPending x).stages = s.stages := rfl
@[simp] theorem withPending_latches (s : State) (x : List Instr) : (s.withPending x).latches = s.latches := rfl
@[simp] theorem withPending_release (s : State) (x : List Instr) : (s.withPending x).release = s.release := rfl
@[simp] theorem withPending_groups (s : State) (x : List Instr) : (s.withPending x).groups = s.groups := rfl
@[simp] theorem withPending_presses (s : State) (x : List Instr) : (s.withPending x).presses = s.presses := rfl
@[simp] theorem withPending_child (s : State) (x : List Instr) : (s.withPending x).child = s.child := rfl
@[simp] theorem withPending_windows (s : State) (x : List Instr) : (s.withPending x).windows = s.windows := rfl
@[simp] theorem withPending_profiles (s : State) (x : List Instr) : (s.withPending x).profiles = s.profiles := rfl
@[simp] theorem withPending_chans (s : State) (x : List Instr) : (s.withPending x).chans = s.chans := rfl
@[simp] theorem withPending_comfort (s : State) (x : List Instr) : (s.withPending x).comfort = s.comfort := rfl
@[simp] theorem withPending_pinch (s : State) (x : List Instr) : (s.withPending x).pinch = s.pinch := rfl
@[simp] theorem withPending_fobs (s : State) (x : List Instr) : (s.withPending x).fobs = s.fobs := rfl
@[simp] theorem withPending_search (s : State) (x : List Instr) : (s.withPending x).search = s.search := rfl
@[simp] theorem withPending_tracker (s : State) (x : List Instr) : (s.withPending x).tracker = s.tracker := rfl
@[simp] theorem withPending_crash (s : State) (x : List Instr) : (s.withPending x).crash = s.crash := rfl
@[simp] theorem withPending_feedback (s : State) (x : List Instr) : (s.withPending x).feedback = s.feedback := rfl
@[simp] theorem withPending_store (s : State) (x : List Instr) : (s.withPending x).store = s.store := rfl
@[simp] theorem withPending_ports (s : State) (x : List Instr) : (s.withPending x).ports = s.ports := rfl
@[simp] theorem withPending_events (s : State) (x : List Instr) : (s.withPending x).events = s.events := rfl
@[simp] theorem withPending_ties (s : State) (x : List Instr) : (s.withPending x).ties = s.ties := rfl
@[simp] theorem withNow_pending (s : State) (x : Time) : (s.withNow x).pending = s.pending := rfl
@[simp] theorem withNow_now (s : State) (x : Time) : (s.withNow x).now = x := rfl
@[simp] theorem withNow_pins (s : State) (x : Time) : (s.withNow x).pins = s.pins := rfl
@[simp] theorem withNow_sys (s : State) (x : Time) : (s.withNow x).sys = s.sys := rfl
@[simp] theorem withNow_supply (s : State) (x : Time) : (s.withNow x).supply = s.supply := rfl
@[simp] theorem withNow_ctx (s : State) (x : Time) : (s.withNow x).ctx = s.ctx := rfl
@[simp] theorem withNow_arb (s : State) (x : Time) : (s.withNow x).arb = s.arb := rfl
@[simp] theorem withNow_stages (s : State) (x : Time) : (s.withNow x).stages = s.stages := rfl
@[simp] theorem withNow_latches (s : State) (x : Time) : (s.withNow x).latches = s.latches := rfl
@[simp] theorem withNow_release (s : State) (x : Time) : (s.withNow x).release = s.release := rfl
@[simp] theorem withNow_groups (s : State) (x : Time) : (s.withNow x).groups = s.groups := rfl
@[simp] theorem withNow_presses (s : State) (x : Time) : (s.withNow x).presses = s.presses := rfl
@[simp] theorem withNow_child (s : State) (x : Time) : (s.withNow x).child = s.child := rfl
@[simp] theorem withNow_windows (s : State) (x : Time) : (s.withNow x).windows = s.windows := rfl
@[simp] theorem withNow_profiles (s : State) (x : Time) : (s.withNow x).profiles = s.profiles := rfl
@[simp] theorem withNow_chans (s : State) (x : Time) : (s.withNow x).chans = s.chans := rfl
@[simp] theorem withNow_comfort (s : State) (x : Time) : (s.withNow x).comfort = s.comfort := rfl
@[simp] theorem withNow_pinch (s : State) (x : Time) : (s.withNow x).pinch = s.pinch := rfl
@[simp] theorem withNow_fobs (s : State) (x : Time) : (s.withNow x).fobs = s.fobs := rfl
@[simp] theorem withNow_search (s : State) (x : Time) : (s.withNow x).search = s.search := rfl
@[simp] theorem withNow_tracker (s : State) (x : Time) : (s.withNow x).tracker = s.tracker := rfl
@[simp] theorem withNow_crash (s : State) (x : Time) : (s.withNow x).crash = s.crash := rfl
@[simp] theorem withNow_feedback (s : State) (x : Time) : (s.withNow x).feedback = s.feedback := rfl
@[simp] theorem withNow_store (s : State) (x : Time) : (s.withNow x).store = s.store := rfl
@[simp] theorem withNow_ports (s : State) (x : Time) : (s.withNow x).ports = s.ports := rfl
@[simp] theorem withNow_events (s : State) (x : Time) : (s.withNow x).events = s.events := rfl
@[simp] theorem withNow_ties (s : State) (x : Time) : (s.withNow x).ties = s.ties := rfl
@[simp] theorem withPins_pending (s : State) (x : Pins) : (s.withPins x).pending = s.pending := rfl
@[simp] theorem withPins_now (s : State) (x : Pins) : (s.withPins x).now = s.now := rfl
@[simp] theorem withPins_pins (s : State) (x : Pins) : (s.withPins x).pins = x := rfl
@[simp] theorem withPins_sys (s : State) (x : Pins) : (s.withPins x).sys = s.sys := rfl
@[simp] theorem withPins_supply (s : State) (x : Pins) : (s.withPins x).supply = s.supply := rfl
@[simp] theorem withPins_ctx (s : State) (x : Pins) : (s.withPins x).ctx = s.ctx := rfl
@[simp] theorem withPins_arb (s : State) (x : Pins) : (s.withPins x).arb = s.arb := rfl
@[simp] theorem withPins_stages (s : State) (x : Pins) : (s.withPins x).stages = s.stages := rfl
@[simp] theorem withPins_latches (s : State) (x : Pins) : (s.withPins x).latches = s.latches := rfl
@[simp] theorem withPins_release (s : State) (x : Pins) : (s.withPins x).release = s.release := rfl
@[simp] theorem withPins_groups (s : State) (x : Pins) : (s.withPins x).groups = s.groups := rfl
@[simp] theorem withPins_presses (s : State) (x : Pins) : (s.withPins x).presses = s.presses := rfl
@[simp] theorem withPins_child (s : State) (x : Pins) : (s.withPins x).child = s.child := rfl
@[simp] theorem withPins_windows (s : State) (x : Pins) : (s.withPins x).windows = s.windows := rfl
@[simp] theorem withPins_profiles (s : State) (x : Pins) : (s.withPins x).profiles = s.profiles := rfl
@[simp] theorem withPins_chans (s : State) (x : Pins) : (s.withPins x).chans = s.chans := rfl
@[simp] theorem withPins_comfort (s : State) (x : Pins) : (s.withPins x).comfort = s.comfort := rfl
@[simp] theorem withPins_pinch (s : State) (x : Pins) : (s.withPins x).pinch = s.pinch := rfl
@[simp] theorem withPins_fobs (s : State) (x : Pins) : (s.withPins x).fobs = s.fobs := rfl
@[simp] theorem withPins_search (s : State) (x : Pins) : (s.withPins x).search = s.search := rfl
@[simp] theorem withPins_tracker (s : State) (x : Pins) : (s.withPins x).tracker = s.tracker := rfl
@[simp] theorem withPins_crash (s : State) (x : Pins) : (s.withPins x).crash = s.crash := rfl
@[simp] theorem withPins_feedback (s : State) (x : Pins) : (s.withPins x).feedback = s.feedback := rfl
@[simp] theorem withPins_store (s : State) (x : Pins) : (s.withPins x).store = s.store := rfl
@[simp] theorem withPins_ports (s : State) (x : Pins) : (s.withPins x).ports = s.ports := rfl
@[simp] theorem withPins_events (s : State) (x : Pins) : (s.withPins x).events = s.events := rfl
@[simp] theorem withPins_ties (s : State) (x : Pins) : (s.withPins x).ties = s.ties := rfl
@[simp] theorem withSys_pending (s : State) (x : Sys) : (s.withSys x).pending = s.pending := rfl
@[simp] theorem withSys_now (s : State) (x : Sys) : (s.withSys x).now = s.now := rfl
@[simp] theorem withSys_pins (s : State) (x : Sys) : (s.withSys x).pins = s.pins := rfl
@[simp] theorem withSys_sys (s : State) (x : Sys) : (s.withSys x).sys = x := rfl
@[simp] theorem withSys_supply (s : State) (x : Sys) : (s.withSys x).supply = s.supply := rfl
@[simp] theorem withSys_ctx (s : State) (x : Sys) : (s.withSys x).ctx = s.ctx := rfl
@[simp] theorem withSys_arb (s : State) (x : Sys) : (s.withSys x).arb = s.arb := rfl
@[simp] theorem withSys_stages (s : State) (x : Sys) : (s.withSys x).stages = s.stages := rfl
@[simp] theorem withSys_latches (s : State) (x : Sys) : (s.withSys x).latches = s.latches := rfl
@[simp] theorem withSys_release (s : State) (x : Sys) : (s.withSys x).release = s.release := rfl
@[simp] theorem withSys_groups (s : State) (x : Sys) : (s.withSys x).groups = s.groups := rfl
@[simp] theorem withSys_presses (s : State) (x : Sys) : (s.withSys x).presses = s.presses := rfl
@[simp] theorem withSys_child (s : State) (x : Sys) : (s.withSys x).child = s.child := rfl
@[simp] theorem withSys_windows (s : State) (x : Sys) : (s.withSys x).windows = s.windows := rfl
@[simp] theorem withSys_profiles (s : State) (x : Sys) : (s.withSys x).profiles = s.profiles := rfl
@[simp] theorem withSys_chans (s : State) (x : Sys) : (s.withSys x).chans = s.chans := rfl
@[simp] theorem withSys_comfort (s : State) (x : Sys) : (s.withSys x).comfort = s.comfort := rfl
@[simp] theorem withSys_pinch (s : State) (x : Sys) : (s.withSys x).pinch = s.pinch := rfl
@[simp] theorem withSys_fobs (s : State) (x : Sys) : (s.withSys x).fobs = s.fobs := rfl
@[simp] theorem withSys_search (s : State) (x : Sys) : (s.withSys x).search = s.search := rfl
@[simp] theorem withSys_tracker (s : State) (x : Sys) : (s.withSys x).tracker = s.tracker := rfl
@[simp] theorem withSys_crash (s : State) (x : Sys) : (s.withSys x).crash = s.crash := rfl
@[simp] theorem withSys_feedback (s : State) (x : Sys) : (s.withSys x).feedback = s.feedback := rfl
@[simp] theorem withSys_store (s : State) (x : Sys) : (s.withSys x).store = s.store := rfl
@[simp] theorem withSys_ports (s : State) (x : Sys) : (s.withSys x).ports = s.ports := rfl
@[simp] theorem withSys_events (s : State) (x : Sys) : (s.withSys x).events = s.events := rfl
@[simp] theorem withSys_ties (s : State) (x : Sys) : (s.withSys x).ties = s.ties := rfl
@[simp] theorem withSupply_pending (s : State) (x : Supply) : (s.withSupply x).pending = s.pending := rfl
@[simp] theorem withSupply_now (s : State) (x : Supply) : (s.withSupply x).now = s.now := rfl
@[simp] theorem withSupply_pins (s : State) (x : Supply) : (s.withSupply x).pins = s.pins := rfl
@[simp] theorem withSupply_sys (s : State) (x : Supply) : (s.withSupply x).sys = s.sys := rfl
@[simp] theorem withSupply_supply (s : State) (x : Supply) : (s.withSupply x).supply = x := rfl
@[simp] theorem withSupply_ctx (s : State) (x : Supply) : (s.withSupply x).ctx = s.ctx := rfl
@[simp] theorem withSupply_arb (s : State) (x : Supply) : (s.withSupply x).arb = s.arb := rfl
@[simp] theorem withSupply_stages (s : State) (x : Supply) : (s.withSupply x).stages = s.stages := rfl
@[simp] theorem withSupply_latches (s : State) (x : Supply) : (s.withSupply x).latches = s.latches := rfl
@[simp] theorem withSupply_release (s : State) (x : Supply) : (s.withSupply x).release = s.release := rfl
@[simp] theorem withSupply_groups (s : State) (x : Supply) : (s.withSupply x).groups = s.groups := rfl
@[simp] theorem withSupply_presses (s : State) (x : Supply) : (s.withSupply x).presses = s.presses := rfl
@[simp] theorem withSupply_child (s : State) (x : Supply) : (s.withSupply x).child = s.child := rfl
@[simp] theorem withSupply_windows (s : State) (x : Supply) : (s.withSupply x).windows = s.windows := rfl
@[simp] theorem withSupply_profiles (s : State) (x : Supply) : (s.withSupply x).profiles = s.profiles := rfl
@[simp] theorem withSupply_chans (s : State) (x : Supply) : (s.withSupply x).chans = s.chans := rfl
@[simp] theorem withSupply_comfort (s : State) (x : Supply) : (s.withSupply x).comfort = s.comfort := rfl
@[simp] theorem withSupply_pinch (s : State) (x : Supply) : (s.withSupply x).pinch = s.pinch := rfl
@[simp] theorem withSupply_fobs (s : State) (x : Supply) : (s.withSupply x).fobs = s.fobs := rfl
@[simp] theorem withSupply_search (s : State) (x : Supply) : (s.withSupply x).search = s.search := rfl
@[simp] theorem withSupply_tracker (s : State) (x : Supply) : (s.withSupply x).tracker = s.tracker := rfl
@[simp] theorem withSupply_crash (s : State) (x : Supply) : (s.withSupply x).crash = s.crash := rfl
@[simp] theorem withSupply_feedback (s : State) (x : Supply) : (s.withSupply x).feedback = s.feedback := rfl
@[simp] theorem withSupply_store (s : State) (x : Supply) : (s.withSupply x).store = s.store := rfl
@[simp] theorem withSupply_ports (s : State) (x : Supply) : (s.withSupply x).ports = s.ports := rfl
@[simp] theorem withSupply_events (s : State) (x : Supply) : (s.withSupply x).events = s.events := rfl
@[simp] theorem withSupply_ties (s : State) (x : Supply) : (s.withSupply x).ties = s.ties := rfl
@[simp] theorem withCtx_pending (s : State) (x : Ctx) : (s.withCtx x).pending = s.pending := rfl
@[simp] theorem withCtx_now (s : State) (x : Ctx) : (s.withCtx x).now = s.now := rfl
@[simp] theorem withCtx_pins (s : State) (x : Ctx) : (s.withCtx x).pins = s.pins := rfl
@[simp] theorem withCtx_sys (s : State) (x : Ctx) : (s.withCtx x).sys = s.sys := rfl
@[simp] theorem withCtx_supply (s : State) (x : Ctx) : (s.withCtx x).supply = s.supply := rfl
@[simp] theorem withCtx_ctx (s : State) (x : Ctx) : (s.withCtx x).ctx = x := rfl
@[simp] theorem withCtx_arb (s : State) (x : Ctx) : (s.withCtx x).arb = s.arb := rfl
@[simp] theorem withCtx_stages (s : State) (x : Ctx) : (s.withCtx x).stages = s.stages := rfl
@[simp] theorem withCtx_latches (s : State) (x : Ctx) : (s.withCtx x).latches = s.latches := rfl
@[simp] theorem withCtx_release (s : State) (x : Ctx) : (s.withCtx x).release = s.release := rfl
@[simp] theorem withCtx_groups (s : State) (x : Ctx) : (s.withCtx x).groups = s.groups := rfl
@[simp] theorem withCtx_presses (s : State) (x : Ctx) : (s.withCtx x).presses = s.presses := rfl
@[simp] theorem withCtx_child (s : State) (x : Ctx) : (s.withCtx x).child = s.child := rfl
@[simp] theorem withCtx_windows (s : State) (x : Ctx) : (s.withCtx x).windows = s.windows := rfl
@[simp] theorem withCtx_profiles (s : State) (x : Ctx) : (s.withCtx x).profiles = s.profiles := rfl
@[simp] theorem withCtx_chans (s : State) (x : Ctx) : (s.withCtx x).chans = s.chans := rfl
@[simp] theorem withCtx_comfort (s : State) (x : Ctx) : (s.withCtx x).comfort = s.comfort := rfl
@[simp] theorem withCtx_pinch (s : State) (x : Ctx) : (s.withCtx x).pinch = s.pinch := rfl
@[simp] theorem withCtx_fobs (s : State) (x : Ctx) : (s.withCtx x).fobs = s.fobs := rfl
@[simp] theorem withCtx_search (s : State) (x : Ctx) : (s.withCtx x).search = s.search := rfl
@[simp] theorem withCtx_tracker (s : State) (x : Ctx) : (s.withCtx x).tracker = s.tracker := rfl
@[simp] theorem withCtx_crash (s : State) (x : Ctx) : (s.withCtx x).crash = s.crash := rfl
@[simp] theorem withCtx_feedback (s : State) (x : Ctx) : (s.withCtx x).feedback = s.feedback := rfl
@[simp] theorem withCtx_store (s : State) (x : Ctx) : (s.withCtx x).store = s.store := rfl
@[simp] theorem withCtx_ports (s : State) (x : Ctx) : (s.withCtx x).ports = s.ports := rfl
@[simp] theorem withCtx_events (s : State) (x : Ctx) : (s.withCtx x).events = s.events := rfl
@[simp] theorem withCtx_ties (s : State) (x : Ctx) : (s.withCtx x).ties = s.ties := rfl
@[simp] theorem withArb_pending (s : State) (x : Arb) : (s.withArb x).pending = s.pending := rfl
@[simp] theorem withArb_now (s : State) (x : Arb) : (s.withArb x).now = s.now := rfl
@[simp] theorem withArb_pins (s : State) (x : Arb) : (s.withArb x).pins = s.pins := rfl
@[simp] theorem withArb_sys (s : State) (x : Arb) : (s.withArb x).sys = s.sys := rfl
@[simp] theorem withArb_supply (s : State) (x : Arb) : (s.withArb x).supply = s.supply := rfl
@[simp] theorem withArb_ctx (s : State) (x : Arb) : (s.withArb x).ctx = s.ctx := rfl
@[simp] theorem withArb_arb (s : State) (x : Arb) : (s.withArb x).arb = x := rfl
@[simp] theorem withArb_stages (s : State) (x : Arb) : (s.withArb x).stages = s.stages := rfl
@[simp] theorem withArb_latches (s : State) (x : Arb) : (s.withArb x).latches = s.latches := rfl
@[simp] theorem withArb_release (s : State) (x : Arb) : (s.withArb x).release = s.release := rfl
@[simp] theorem withArb_groups (s : State) (x : Arb) : (s.withArb x).groups = s.groups := rfl
@[simp] theorem withArb_presses (s : State) (x : Arb) : (s.withArb x).presses = s.presses := rfl
@[simp] theorem withArb_child (s : State) (x : Arb) : (s.withArb x).child = s.child := rfl
@[simp] theorem withArb_windows (s : State) (x : Arb) : (s.withArb x).windows = s.windows := rfl
@[simp] theorem withArb_profiles (s : State) (x : Arb) : (s.withArb x).profiles = s.profiles := rfl
@[simp] theorem withArb_chans (s : State) (x : Arb) : (s.withArb x).chans = s.chans := rfl
@[simp] theorem withArb_comfort (s : State) (x : Arb) : (s.withArb x).comfort = s.comfort := rfl
@[simp] theorem withArb_pinch (s : State) (x : Arb) : (s.withArb x).pinch = s.pinch := rfl
@[simp] theorem withArb_fobs (s : State) (x : Arb) : (s.withArb x).fobs = s.fobs := rfl
@[simp] theorem withArb_search (s : State) (x : Arb) : (s.withArb x).search = s.search := rfl
@[simp] theorem withArb_tracker (s : State) (x : Arb) : (s.withArb x).tracker = s.tracker := rfl
@[simp] theorem withArb_crash (s : State) (x : Arb) : (s.withArb x).crash = s.crash := rfl
@[simp] theorem withArb_feedback (s : State) (x : Arb) : (s.withArb x).feedback = s.feedback := rfl
@[simp] theorem withArb_store (s : State) (x : Arb) : (s.withArb x).store = s.store := rfl
@[simp] theorem withArb_ports (s : State) (x : Arb) : (s.withArb x).ports = s.ports := rfl
@[simp] theorem withArb_events (s : State) (x : Arb) : (s.withArb x).events = s.events := rfl
@[simp] theorem withArb_ties (s : State) (x : Arb) : (s.withArb x).ties = s.ties := rfl
@[simp] theorem withStages_pending (s : State) (x : Stages) : (s.withStages x).pending = s.pending := rfl
@[simp] theorem withStages_now (s : State) (x : Stages) : (s.withStages x).now = s.now := rfl
@[simp] theorem withStages_pins (s : State) (x : Stages) : (s.withStages x).pins = s.pins := rfl
@[simp] theorem withStages_sys (s : State) (x : Stages) : (s.withStages x).sys = s.sys := rfl
@[simp] theorem withStages_supply (s : State) (x : Stages) : (s.withStages x).supply = s.supply := rfl
@[simp] theorem withStages_ctx (s : State) (x : Stages) : (s.withStages x).ctx = s.ctx := rfl
@[simp] theorem withStages_arb (s : State) (x : Stages) : (s.withStages x).arb = s.arb := rfl
@[simp] theorem withStages_stages (s : State) (x : Stages) : (s.withStages x).stages = x := rfl
@[simp] theorem withStages_latches (s : State) (x : Stages) : (s.withStages x).latches = s.latches := rfl
@[simp] theorem withStages_release (s : State) (x : Stages) : (s.withStages x).release = s.release := rfl
@[simp] theorem withStages_groups (s : State) (x : Stages) : (s.withStages x).groups = s.groups := rfl
@[simp] theorem withStages_presses (s : State) (x : Stages) : (s.withStages x).presses = s.presses := rfl
@[simp] theorem withStages_child (s : State) (x : Stages) : (s.withStages x).child = s.child := rfl
@[simp] theorem withStages_windows (s : State) (x : Stages) : (s.withStages x).windows = s.windows := rfl
@[simp] theorem withStages_profiles (s : State) (x : Stages) : (s.withStages x).profiles = s.profiles := rfl
@[simp] theorem withStages_chans (s : State) (x : Stages) : (s.withStages x).chans = s.chans := rfl
@[simp] theorem withStages_comfort (s : State) (x : Stages) : (s.withStages x).comfort = s.comfort := rfl
@[simp] theorem withStages_pinch (s : State) (x : Stages) : (s.withStages x).pinch = s.pinch := rfl
@[simp] theorem withStages_fobs (s : State) (x : Stages) : (s.withStages x).fobs = s.fobs := rfl
@[simp] theorem withStages_search (s : State) (x : Stages) : (s.withStages x).search = s.search := rfl
@[simp] theorem withStages_tracker (s : State) (x : Stages) : (s.withStages x).tracker = s.tracker := rfl
@[simp] theorem withStages_crash (s : State) (x : Stages) : (s.withStages x).crash = s.crash := rfl
@[simp] theorem withStages_feedback (s : State) (x : Stages) : (s.withStages x).feedback = s.feedback := rfl
@[simp] theorem withStages_store (s : State) (x : Stages) : (s.withStages x).store = s.store := rfl
@[simp] theorem withStages_ports (s : State) (x : Stages) : (s.withStages x).ports = s.ports := rfl
@[simp] theorem withStages_events (s : State) (x : Stages) : (s.withStages x).events = s.events := rfl
@[simp] theorem withStages_ties (s : State) (x : Stages) : (s.withStages x).ties = s.ties := rfl
@[simp] theorem withLatches_pending (s : State) (x : Doors LatchRec) : (s.withLatches x).pending = s.pending := rfl
@[simp] theorem withLatches_now (s : State) (x : Doors LatchRec) : (s.withLatches x).now = s.now := rfl
@[simp] theorem withLatches_pins (s : State) (x : Doors LatchRec) : (s.withLatches x).pins = s.pins := rfl
@[simp] theorem withLatches_sys (s : State) (x : Doors LatchRec) : (s.withLatches x).sys = s.sys := rfl
@[simp] theorem withLatches_supply (s : State) (x : Doors LatchRec) : (s.withLatches x).supply = s.supply := rfl
@[simp] theorem withLatches_ctx (s : State) (x : Doors LatchRec) : (s.withLatches x).ctx = s.ctx := rfl
@[simp] theorem withLatches_arb (s : State) (x : Doors LatchRec) : (s.withLatches x).arb = s.arb := rfl
@[simp] theorem withLatches_stages (s : State) (x : Doors LatchRec) : (s.withLatches x).stages = s.stages := rfl
@[simp] theorem withLatches_latches (s : State) (x : Doors LatchRec) : (s.withLatches x).latches = x := rfl
@[simp] theorem withLatches_release (s : State) (x : Doors LatchRec) : (s.withLatches x).release = s.release := rfl
@[simp] theorem withLatches_groups (s : State) (x : Doors LatchRec) : (s.withLatches x).groups = s.groups := rfl
@[simp] theorem withLatches_presses (s : State) (x : Doors LatchRec) : (s.withLatches x).presses = s.presses := rfl
@[simp] theorem withLatches_child (s : State) (x : Doors LatchRec) : (s.withLatches x).child = s.child := rfl
@[simp] theorem withLatches_windows (s : State) (x : Doors LatchRec) : (s.withLatches x).windows = s.windows := rfl
@[simp] theorem withLatches_profiles (s : State) (x : Doors LatchRec) : (s.withLatches x).profiles = s.profiles := rfl
@[simp] theorem withLatches_chans (s : State) (x : Doors LatchRec) : (s.withLatches x).chans = s.chans := rfl
@[simp] theorem withLatches_comfort (s : State) (x : Doors LatchRec) : (s.withLatches x).comfort = s.comfort := rfl
@[simp] theorem withLatches_pinch (s : State) (x : Doors LatchRec) : (s.withLatches x).pinch = s.pinch := rfl
@[simp] theorem withLatches_fobs (s : State) (x : Doors LatchRec) : (s.withLatches x).fobs = s.fobs := rfl
@[simp] theorem withLatches_search (s : State) (x : Doors LatchRec) : (s.withLatches x).search = s.search := rfl
@[simp] theorem withLatches_tracker (s : State) (x : Doors LatchRec) : (s.withLatches x).tracker = s.tracker := rfl
@[simp] theorem withLatches_crash (s : State) (x : Doors LatchRec) : (s.withLatches x).crash = s.crash := rfl
@[simp] theorem withLatches_feedback (s : State) (x : Doors LatchRec) : (s.withLatches x).feedback = s.feedback := rfl
@[simp] theorem withLatches_store (s : State) (x : Doors LatchRec) : (s.withLatches x).store = s.store := rfl
@[simp] theorem withLatches_ports (s : State) (x : Doors LatchRec) : (s.withLatches x).ports = s.ports := rfl
@[simp] theorem withLatches_events (s : State) (x : Doors LatchRec) : (s.withLatches x).events = s.events := rfl
@[simp] theorem withLatches_ties (s : State) (x : Doors LatchRec) : (s.withLatches x).ties = s.ties := rfl
@[simp] theorem withRelease_pending (s : State) (x : ReleaseRec) : (s.withRelease x).pending = s.pending := rfl
@[simp] theorem withRelease_now (s : State) (x : ReleaseRec) : (s.withRelease x).now = s.now := rfl
@[simp] theorem withRelease_pins (s : State) (x : ReleaseRec) : (s.withRelease x).pins = s.pins := rfl
@[simp] theorem withRelease_sys (s : State) (x : ReleaseRec) : (s.withRelease x).sys = s.sys := rfl
@[simp] theorem withRelease_supply (s : State) (x : ReleaseRec) : (s.withRelease x).supply = s.supply := rfl
@[simp] theorem withRelease_ctx (s : State) (x : ReleaseRec) : (s.withRelease x).ctx = s.ctx := rfl
@[simp] theorem withRelease_arb (s : State) (x : ReleaseRec) : (s.withRelease x).arb = s.arb := rfl
@[simp] theorem withRelease_stages (s : State) (x : ReleaseRec) : (s.withRelease x).stages = s.stages := rfl
@[simp] theorem withRelease_latches (s : State) (x : ReleaseRec) : (s.withRelease x).latches = s.latches := rfl
@[simp] theorem withRelease_release (s : State) (x : ReleaseRec) : (s.withRelease x).release = x := rfl
@[simp] theorem withRelease_groups (s : State) (x : ReleaseRec) : (s.withRelease x).groups = s.groups := rfl
@[simp] theorem withRelease_presses (s : State) (x : ReleaseRec) : (s.withRelease x).presses = s.presses := rfl
@[simp] theorem withRelease_child (s : State) (x : ReleaseRec) : (s.withRelease x).child = s.child := rfl
@[simp] theorem withRelease_windows (s : State) (x : ReleaseRec) : (s.withRelease x).windows = s.windows := rfl
@[simp] theorem withRelease_profiles (s : State) (x : ReleaseRec) : (s.withRelease x).profiles = s.profiles := rfl
@[simp] theorem withRelease_chans (s : State) (x : ReleaseRec) : (s.withRelease x).chans = s.chans := rfl
@[simp] theorem withRelease_comfort (s : State) (x : ReleaseRec) : (s.withRelease x).comfort = s.comfort := rfl
@[simp] theorem withRelease_pinch (s : State) (x : ReleaseRec) : (s.withRelease x).pinch = s.pinch := rfl
@[simp] theorem withRelease_fobs (s : State) (x : ReleaseRec) : (s.withRelease x).fobs = s.fobs := rfl
@[simp] theorem withRelease_search (s : State) (x : ReleaseRec) : (s.withRelease x).search = s.search := rfl
@[simp] theorem withRelease_tracker (s : State) (x : ReleaseRec) : (s.withRelease x).tracker = s.tracker := rfl
@[simp] theorem withRelease_crash (s : State) (x : ReleaseRec) : (s.withRelease x).crash = s.crash := rfl
@[simp] theorem withRelease_feedback (s : State) (x : ReleaseRec) : (s.withRelease x).feedback = s.feedback := rfl
@[simp] theorem withRelease_store (s : State) (x : ReleaseRec) : (s.withRelease x).store = s.store := rfl
@[simp] theorem withRelease_ports (s : State) (x : ReleaseRec) : (s.withRelease x).ports = s.ports := rfl
@[simp] theorem withRelease_events (s : State) (x : ReleaseRec) : (s.withRelease x).events = s.events := rfl
@[simp] theorem withRelease_ties (s : State) (x : ReleaseRec) : (s.withRelease x).ties = s.ties := rfl
@[simp] theorem withGroups_pending (s : State) (x : GroupTable) : (s.withGroups x).pending = s.pending := rfl
@[simp] theorem withGroups_now (s : State) (x : GroupTable) : (s.withGroups x).now = s.now := rfl
@[simp] theorem withGroups_pins (s : State) (x : GroupTable) : (s.withGroups x).pins = s.pins := rfl
@[simp] theorem withGroups_sys (s : State) (x : GroupTable) : (s.withGroups x).sys = s.sys := rfl
@[simp] theorem withGroups_supply (s : State) (x : GroupTable) : (s.withGroups x).supply = s.supply := rfl
@[simp] theorem withGroups_ctx (s : State) (x : GroupTable) : (s.withGroups x).ctx = s.ctx := rfl
@[simp] theorem withGroups_arb (s : State) (x : GroupTable) : (s.withGroups x).arb = s.arb := rfl
@[simp] theorem withGroups_stages (s : State) (x : GroupTable) : (s.withGroups x).stages = s.stages := rfl
@[simp] theorem withGroups_latches (s : State) (x : GroupTable) : (s.withGroups x).latches = s.latches := rfl
@[simp] theorem withGroups_release (s : State) (x : GroupTable) : (s.withGroups x).release = s.release := rfl
@[simp] theorem withGroups_groups (s : State) (x : GroupTable) : (s.withGroups x).groups = x := rfl
@[simp] theorem withGroups_presses (s : State) (x : GroupTable) : (s.withGroups x).presses = s.presses := rfl
@[simp] theorem withGroups_child (s : State) (x : GroupTable) : (s.withGroups x).child = s.child := rfl
@[simp] theorem withGroups_windows (s : State) (x : GroupTable) : (s.withGroups x).windows = s.windows := rfl
@[simp] theorem withGroups_profiles (s : State) (x : GroupTable) : (s.withGroups x).profiles = s.profiles := rfl
@[simp] theorem withGroups_chans (s : State) (x : GroupTable) : (s.withGroups x).chans = s.chans := rfl
@[simp] theorem withGroups_comfort (s : State) (x : GroupTable) : (s.withGroups x).comfort = s.comfort := rfl
@[simp] theorem withGroups_pinch (s : State) (x : GroupTable) : (s.withGroups x).pinch = s.pinch := rfl
@[simp] theorem withGroups_fobs (s : State) (x : GroupTable) : (s.withGroups x).fobs = s.fobs := rfl
@[simp] theorem withGroups_search (s : State) (x : GroupTable) : (s.withGroups x).search = s.search := rfl
@[simp] theorem withGroups_tracker (s : State) (x : GroupTable) : (s.withGroups x).tracker = s.tracker := rfl
@[simp] theorem withGroups_crash (s : State) (x : GroupTable) : (s.withGroups x).crash = s.crash := rfl
@[simp] theorem withGroups_feedback (s : State) (x : GroupTable) : (s.withGroups x).feedback = s.feedback := rfl
@[simp] theorem withGroups_store (s : State) (x : GroupTable) : (s.withGroups x).store = s.store := rfl
@[simp] theorem withGroups_ports (s : State) (x : GroupTable) : (s.withGroups x).ports = s.ports := rfl
@[simp] theorem withGroups_events (s : State) (x : GroupTable) : (s.withGroups x).events = s.events := rfl
@[simp] theorem withGroups_ties (s : State) (x : GroupTable) : (s.withGroups x).ties = s.ties := rfl
@[simp] theorem withPresses_pending (s : State) (x : Presses) : (s.withPresses x).pending = s.pending := rfl
@[simp] theorem withPresses_now (s : State) (x : Presses) : (s.withPresses x).now = s.now := rfl
@[simp] theorem withPresses_pins (s : State) (x : Presses) : (s.withPresses x).pins = s.pins := rfl
@[simp] theorem withPresses_sys (s : State) (x : Presses) : (s.withPresses x).sys = s.sys := rfl
@[simp] theorem withPresses_supply (s : State) (x : Presses) : (s.withPresses x).supply = s.supply := rfl
@[simp] theorem withPresses_ctx (s : State) (x : Presses) : (s.withPresses x).ctx = s.ctx := rfl
@[simp] theorem withPresses_arb (s : State) (x : Presses) : (s.withPresses x).arb = s.arb := rfl
@[simp] theorem withPresses_stages (s : State) (x : Presses) : (s.withPresses x).stages = s.stages := rfl
@[simp] theorem withPresses_latches (s : State) (x : Presses) : (s.withPresses x).latches = s.latches := rfl
@[simp] theorem withPresses_release (s : State) (x : Presses) : (s.withPresses x).release = s.release := rfl
@[simp] theorem withPresses_groups (s : State) (x : Presses) : (s.withPresses x).groups = s.groups := rfl
@[simp] theorem withPresses_presses (s : State) (x : Presses) : (s.withPresses x).presses = x := rfl
@[simp] theorem withPresses_child (s : State) (x : Presses) : (s.withPresses x).child = s.child := rfl
@[simp] theorem withPresses_windows (s : State) (x : Presses) : (s.withPresses x).windows = s.windows := rfl
@[simp] theorem withPresses_profiles (s : State) (x : Presses) : (s.withPresses x).profiles = s.profiles := rfl
@[simp] theorem withPresses_chans (s : State) (x : Presses) : (s.withPresses x).chans = s.chans := rfl
@[simp] theorem withPresses_comfort (s : State) (x : Presses) : (s.withPresses x).comfort = s.comfort := rfl
@[simp] theorem withPresses_pinch (s : State) (x : Presses) : (s.withPresses x).pinch = s.pinch := rfl
@[simp] theorem withPresses_fobs (s : State) (x : Presses) : (s.withPresses x).fobs = s.fobs := rfl
@[simp] theorem withPresses_search (s : State) (x : Presses) : (s.withPresses x).search = s.search := rfl
@[simp] theorem withPresses_tracker (s : State) (x : Presses) : (s.withPresses x).tracker = s.tracker := rfl
@[simp] theorem withPresses_crash (s : State) (x : Presses) : (s.withPresses x).crash = s.crash := rfl
@[simp] theorem withPresses_feedback (s : State) (x : Presses) : (s.withPresses x).feedback = s.feedback := rfl
@[simp] theorem withPresses_store (s : State) (x : Presses) : (s.withPresses x).store = s.store := rfl
@[simp] theorem withPresses_ports (s : State) (x : Presses) : (s.withPresses x).ports = s.ports := rfl
@[simp] theorem withPresses_events (s : State) (x : Presses) : (s.withPresses x).events = s.events := rfl
@[simp] theorem withPresses_ties (s : State) (x : Presses) : (s.withPresses x).ties = s.ties := rfl
@[simp] theorem withChild_pending (s : State) (x : ChildUnit) : (s.withChild x).pending = s.pending := rfl
@[simp] theorem withChild_now (s : State) (x : ChildUnit) : (s.withChild x).now = s.now := rfl
@[simp] theorem withChild_pins (s : State) (x : ChildUnit) : (s.withChild x).pins = s.pins := rfl
@[simp] theorem withChild_sys (s : State) (x : ChildUnit) : (s.withChild x).sys = s.sys := rfl
@[simp] theorem withChild_supply (s : State) (x : ChildUnit) : (s.withChild x).supply = s.supply := rfl
@[simp] theorem withChild_ctx (s : State) (x : ChildUnit) : (s.withChild x).ctx = s.ctx := rfl
@[simp] theorem withChild_arb (s : State) (x : ChildUnit) : (s.withChild x).arb = s.arb := rfl
@[simp] theorem withChild_stages (s : State) (x : ChildUnit) : (s.withChild x).stages = s.stages := rfl
@[simp] theorem withChild_latches (s : State) (x : ChildUnit) : (s.withChild x).latches = s.latches := rfl
@[simp] theorem withChild_release (s : State) (x : ChildUnit) : (s.withChild x).release = s.release := rfl
@[simp] theorem withChild_groups (s : State) (x : ChildUnit) : (s.withChild x).groups = s.groups := rfl
@[simp] theorem withChild_presses (s : State) (x : ChildUnit) : (s.withChild x).presses = s.presses := rfl
@[simp] theorem withChild_child (s : State) (x : ChildUnit) : (s.withChild x).child = x := rfl
@[simp] theorem withChild_windows (s : State) (x : ChildUnit) : (s.withChild x).windows = s.windows := rfl
@[simp] theorem withChild_profiles (s : State) (x : ChildUnit) : (s.withChild x).profiles = s.profiles := rfl
@[simp] theorem withChild_chans (s : State) (x : ChildUnit) : (s.withChild x).chans = s.chans := rfl
@[simp] theorem withChild_comfort (s : State) (x : ChildUnit) : (s.withChild x).comfort = s.comfort := rfl
@[simp] theorem withChild_pinch (s : State) (x : ChildUnit) : (s.withChild x).pinch = s.pinch := rfl
@[simp] theorem withChild_fobs (s : State) (x : ChildUnit) : (s.withChild x).fobs = s.fobs := rfl
@[simp] theorem withChild_search (s : State) (x : ChildUnit) : (s.withChild x).search = s.search := rfl
@[simp] theorem withChild_tracker (s : State) (x : ChildUnit) : (s.withChild x).tracker = s.tracker := rfl
@[simp] theorem withChild_crash (s : State) (x : ChildUnit) : (s.withChild x).crash = s.crash := rfl
@[simp] theorem withChild_feedback (s : State) (x : ChildUnit) : (s.withChild x).feedback = s.feedback := rfl
@[simp] theorem withChild_store (s : State) (x : ChildUnit) : (s.withChild x).store = s.store := rfl
@[simp] theorem withChild_ports (s : State) (x : ChildUnit) : (s.withChild x).ports = s.ports := rfl
@[simp] theorem withChild_events (s : State) (x : ChildUnit) : (s.withChild x).events = s.events := rfl
@[simp] theorem withChild_ties (s : State) (x : ChildUnit) : (s.withChild x).ties = s.ties := rfl
@[simp] theorem withWindows_pending (s : State) (x : Wins WindowRec) : (s.withWindows x).pending = s.pending := rfl
@[simp] theorem withWindows_now (s : State) (x : Wins WindowRec) : (s.withWindows x).now = s.now := rfl
@[simp] theorem withWindows_pins (s : State) (x : Wins WindowRec) : (s.withWindows x).pins = s.pins := rfl
@[simp] theorem withWindows_sys (s : State) (x : Wins WindowRec) : (s.withWindows x).sys = s.sys := rfl
@[simp] theorem withWindows_supply (s : State) (x : Wins WindowRec) : (s.withWindows x).supply = s.supply := rfl
@[simp] theorem withWindows_ctx (s : State) (x : Wins WindowRec) : (s.withWindows x).ctx = s.ctx := rfl
@[simp] theorem withWindows_arb (s : State) (x : Wins WindowRec) : (s.withWindows x).arb = s.arb := rfl
@[simp] theorem withWindows_stages (s : State) (x : Wins WindowRec) : (s.withWindows x).stages = s.stages := rfl
@[simp] theorem withWindows_latches (s : State) (x : Wins WindowRec) : (s.withWindows x).latches = s.latches := rfl
@[simp] theorem withWindows_release (s : State) (x : Wins WindowRec) : (s.withWindows x).release = s.release := rfl
@[simp] theorem withWindows_groups (s : State) (x : Wins WindowRec) : (s.withWindows x).groups = s.groups := rfl
@[simp] theorem withWindows_presses (s : State) (x : Wins WindowRec) : (s.withWindows x).presses = s.presses := rfl
@[simp] theorem withWindows_child (s : State) (x : Wins WindowRec) : (s.withWindows x).child = s.child := rfl
@[simp] theorem withWindows_windows (s : State) (x : Wins WindowRec) : (s.withWindows x).windows = x := rfl
@[simp] theorem withWindows_profiles (s : State) (x : Wins WindowRec) : (s.withWindows x).profiles = s.profiles := rfl
@[simp] theorem withWindows_chans (s : State) (x : Wins WindowRec) : (s.withWindows x).chans = s.chans := rfl
@[simp] theorem withWindows_comfort (s : State) (x : Wins WindowRec) : (s.withWindows x).comfort = s.comfort := rfl
@[simp] theorem withWindows_pinch (s : State) (x : Wins WindowRec) : (s.withWindows x).pinch = s.pinch := rfl
@[simp] theorem withWindows_fobs (s : State) (x : Wins WindowRec) : (s.withWindows x).fobs = s.fobs := rfl
@[simp] theorem withWindows_search (s : State) (x : Wins WindowRec) : (s.withWindows x).search = s.search := rfl
@[simp] theorem withWindows_tracker (s : State) (x : Wins WindowRec) : (s.withWindows x).tracker = s.tracker := rfl
@[simp] theorem withWindows_crash (s : State) (x : Wins WindowRec) : (s.withWindows x).crash = s.crash := rfl
@[simp] theorem withWindows_feedback (s : State) (x : Wins WindowRec) : (s.withWindows x).feedback = s.feedback := rfl
@[simp] theorem withWindows_store (s : State) (x : Wins WindowRec) : (s.withWindows x).store = s.store := rfl
@[simp] theorem withWindows_ports (s : State) (x : Wins WindowRec) : (s.withWindows x).ports = s.ports := rfl
@[simp] theorem withWindows_events (s : State) (x : Wins WindowRec) : (s.withWindows x).events = s.events := rfl
@[simp] theorem withWindows_ties (s : State) (x : Wins WindowRec) : (s.withWindows x).ties = s.ties := rfl
@[simp] theorem withProfiles_pending (s : State) (x : Wins (Vector Nat 32)) : (s.withProfiles x).pending = s.pending := rfl
@[simp] theorem withProfiles_now (s : State) (x : Wins (Vector Nat 32)) : (s.withProfiles x).now = s.now := rfl
@[simp] theorem withProfiles_pins (s : State) (x : Wins (Vector Nat 32)) : (s.withProfiles x).pins = s.pins := rfl
@[simp] theorem withProfiles_sys (s : State) (x : Wins (Vector Nat 32)) : (s.withProfiles x).sys = s.sys := rfl
@[simp] theorem withProfiles_supply (s : State) (x : Wins (Vector Nat 32)) : (s.withProfiles x).supply = s.supply := rfl
@[simp] theorem withProfiles_ctx (s : State) (x : Wins (Vector Nat 32)) : (s.withProfiles x).ctx = s.ctx := rfl
@[simp] theorem withProfiles_arb (s : State) (x : Wins (Vector Nat 32)) : (s.withProfiles x).arb = s.arb := rfl
@[simp] theorem withProfiles_stages (s : State) (x : Wins (Vector Nat 32)) : (s.withProfiles x).stages = s.stages := rfl
@[simp] theorem withProfiles_latches (s : State) (x : Wins (Vector Nat 32)) : (s.withProfiles x).latches = s.latches := rfl
@[simp] theorem withProfiles_release (s : State) (x : Wins (Vector Nat 32)) : (s.withProfiles x).release = s.release := rfl
@[simp] theorem withProfiles_groups (s : State) (x : Wins (Vector Nat 32)) : (s.withProfiles x).groups = s.groups := rfl
@[simp] theorem withProfiles_presses (s : State) (x : Wins (Vector Nat 32)) : (s.withProfiles x).presses = s.presses := rfl
@[simp] theorem withProfiles_child (s : State) (x : Wins (Vector Nat 32)) : (s.withProfiles x).child = s.child := rfl
@[simp] theorem withProfiles_windows (s : State) (x : Wins (Vector Nat 32)) : (s.withProfiles x).windows = s.windows := rfl
@[simp] theorem withProfiles_profiles (s : State) (x : Wins (Vector Nat 32)) : (s.withProfiles x).profiles = x := rfl
@[simp] theorem withProfiles_chans (s : State) (x : Wins (Vector Nat 32)) : (s.withProfiles x).chans = s.chans := rfl
@[simp] theorem withProfiles_comfort (s : State) (x : Wins (Vector Nat 32)) : (s.withProfiles x).comfort = s.comfort := rfl
@[simp] theorem withProfiles_pinch (s : State) (x : Wins (Vector Nat 32)) : (s.withProfiles x).pinch = s.pinch := rfl
@[simp] theorem withProfiles_fobs (s : State) (x : Wins (Vector Nat 32)) : (s.withProfiles x).fobs = s.fobs := rfl
@[simp] theorem withProfiles_search (s : State) (x : Wins (Vector Nat 32)) : (s.withProfiles x).search = s.search := rfl
@[simp] theorem withProfiles_tracker (s : State) (x : Wins (Vector Nat 32)) : (s.withProfiles x).tracker = s.tracker := rfl
@[simp] theorem withProfiles_crash (s : State) (x : Wins (Vector Nat 32)) : (s.withProfiles x).crash = s.crash := rfl
@[simp] theorem withProfiles_feedback (s : State) (x : Wins (Vector Nat 32)) : (s.withProfiles x).feedback = s.feedback := rfl
@[simp] theorem withProfiles_store (s : State) (x : Wins (Vector Nat 32)) : (s.withProfiles x).store = s.store := rfl
@[simp] theorem withProfiles_ports (s : State) (x : Wins (Vector Nat 32)) : (s.withProfiles x).ports = s.ports := rfl
@[simp] theorem withProfiles_events (s : State) (x : Wins (Vector Nat 32)) : (s.withProfiles x).events = s.events := rfl
@[simp] theorem withProfiles_ties (s : State) (x : Wins (Vector Nat 32)) : (s.withProfiles x).ties = s.ties := rfl
@[simp] theorem withChans_pending (s : State) (x : Chans ChanRec) : (s.withChans x).pending = s.pending := rfl
@[simp] theorem withChans_now (s : State) (x : Chans ChanRec) : (s.withChans x).now = s.now := rfl
@[simp] theorem withChans_pins (s : State) (x : Chans ChanRec) : (s.withChans x).pins = s.pins := rfl
@[simp] theorem withChans_sys (s : State) (x : Chans ChanRec) : (s.withChans x).sys = s.sys := rfl
@[simp] theorem withChans_supply (s : State) (x : Chans ChanRec) : (s.withChans x).supply = s.supply := rfl
@[simp] theorem withChans_ctx (s : State) (x : Chans ChanRec) : (s.withChans x).ctx = s.ctx := rfl
@[simp] theorem withChans_arb (s : State) (x : Chans ChanRec) : (s.withChans x).arb = s.arb := rfl
@[simp] theorem withChans_stages (s : State) (x : Chans ChanRec) : (s.withChans x).stages = s.stages := rfl
@[simp] theorem withChans_latches (s : State) (x : Chans ChanRec) : (s.withChans x).latches = s.latches := rfl
@[simp] theorem withChans_release (s : State) (x : Chans ChanRec) : (s.withChans x).release = s.release := rfl
@[simp] theorem withChans_groups (s : State) (x : Chans ChanRec) : (s.withChans x).groups = s.groups := rfl
@[simp] theorem withChans_presses (s : State) (x : Chans ChanRec) : (s.withChans x).presses = s.presses := rfl
@[simp] theorem withChans_child (s : State) (x : Chans ChanRec) : (s.withChans x).child = s.child := rfl
@[simp] theorem withChans_windows (s : State) (x : Chans ChanRec) : (s.withChans x).windows = s.windows := rfl
@[simp] theorem withChans_profiles (s : State) (x : Chans ChanRec) : (s.withChans x).profiles = s.profiles := rfl
@[simp] theorem withChans_chans (s : State) (x : Chans ChanRec) : (s.withChans x).chans = x := rfl
@[simp] theorem withChans_comfort (s : State) (x : Chans ChanRec) : (s.withChans x).comfort = s.comfort := rfl
@[simp] theorem withChans_pinch (s : State) (x : Chans ChanRec) : (s.withChans x).pinch = s.pinch := rfl
@[simp] theorem withChans_fobs (s : State) (x : Chans ChanRec) : (s.withChans x).fobs = s.fobs := rfl
@[simp] theorem withChans_search (s : State) (x : Chans ChanRec) : (s.withChans x).search = s.search := rfl
@[simp] theorem withChans_tracker (s : State) (x : Chans ChanRec) : (s.withChans x).tracker = s.tracker := rfl
@[simp] theorem withChans_crash (s : State) (x : Chans ChanRec) : (s.withChans x).crash = s.crash := rfl
@[simp] theorem withChans_feedback (s : State) (x : Chans ChanRec) : (s.withChans x).feedback = s.feedback := rfl
@[simp] theorem withChans_store (s : State) (x : Chans ChanRec) : (s.withChans x).store = s.store := rfl
@[simp] theorem withChans_ports (s : State) (x : Chans ChanRec) : (s.withChans x).ports = s.ports := rfl
@[simp] theorem withChans_events (s : State) (x : Chans ChanRec) : (s.withChans x).events = s.events := rfl
@[simp] theorem withChans_ties (s : State) (x : Chans ChanRec) : (s.withChans x).ties = s.ties := rfl
@[simp] theorem withComfort_pending (s : State) (x : Wins Bool) : (s.withComfort x).pending = s.pending := rfl
@[simp] theorem withComfort_now (s : State) (x : Wins Bool) : (s.withComfort x).now = s.now := rfl
@[simp] theorem withComfort_pins (s : State) (x : Wins Bool) : (s.withComfort x).pins = s.pins := rfl
@[simp] theorem withComfort_sys (s : State) (x : Wins Bool) : (s.withComfort x).sys = s.sys := rfl
@[simp] theorem withComfort_supply (s : State) (x : Wins Bool) : (s.withComfort x).supply = s.supply := rfl
@[simp] theorem withComfort_ctx (s : State) (x : Wins Bool) : (s.withComfort x).ctx = s.ctx := rfl
@[simp] theorem withComfort_arb (s : State) (x : Wins Bool) : (s.withComfort x).arb = s.arb := rfl
@[simp] theorem withComfort_stages (s : State) (x : Wins Bool) : (s.withComfort x).stages = s.stages := rfl
@[simp] theorem withComfort_latches (s : State) (x : Wins Bool) : (s.withComfort x).latches = s.latches := rfl
@[simp] theorem withComfort_release (s : State) (x : Wins Bool) : (s.withComfort x).release = s.release := rfl
@[simp] theorem withComfort_groups (s : State) (x : Wins Bool) : (s.withComfort x).groups = s.groups := rfl
@[simp] theorem withComfort_presses (s : State) (x : Wins Bool) : (s.withComfort x).presses = s.presses := rfl
@[simp] theorem withComfort_child (s : State) (x : Wins Bool) : (s.withComfort x).child = s.child := rfl
@[simp] theorem withComfort_windows (s : State) (x : Wins Bool) : (s.withComfort x).windows = s.windows := rfl
@[simp] theorem withComfort_profiles (s : State) (x : Wins Bool) : (s.withComfort x).profiles = s.profiles := rfl
@[simp] theorem withComfort_chans (s : State) (x : Wins Bool) : (s.withComfort x).chans = s.chans := rfl
@[simp] theorem withComfort_comfort (s : State) (x : Wins Bool) : (s.withComfort x).comfort = x := rfl
@[simp] theorem withComfort_pinch (s : State) (x : Wins Bool) : (s.withComfort x).pinch = s.pinch := rfl
@[simp] theorem withComfort_fobs (s : State) (x : Wins Bool) : (s.withComfort x).fobs = s.fobs := rfl
@[simp] theorem withComfort_search (s : State) (x : Wins Bool) : (s.withComfort x).search = s.search := rfl
@[simp] theorem withComfort_tracker (s : State) (x : Wins Bool) : (s.withComfort x).tracker = s.tracker := rfl
@[simp] theorem withComfort_crash (s : State) (x : Wins Bool) : (s.withComfort x).crash = s.crash := rfl
@[simp] theorem withComfort_feedback (s : State) (x : Wins Bool) : (s.withComfort x).feedback = s.feedback := rfl
@[simp] theorem withComfort_store (s : State) (x : Wins Bool) : (s.withComfort x).store = s.store := rfl
@[simp] theorem withComfort_ports (s : State) (x : Wins Bool) : (s.withComfort x).ports = s.ports := rfl
@[simp] theorem withComfort_events (s : State) (x : Wins Bool) : (s.withComfort x).events = s.events := rfl
@[simp] theorem withComfort_ties (s : State) (x : Wins Bool) : (s.withComfort x).ties = s.ties := rfl
@[simp] theorem withPinch_pending (s : State) (x : Wins PinchRec) : (s.withPinch x).pending = s.pending := rfl
@[simp] theorem withPinch_now (s : State) (x : Wins PinchRec) : (s.withPinch x).now = s.now := rfl
@[simp] theorem withPinch_pins (s : State) (x : Wins PinchRec) : (s.withPinch x).pins = s.pins := rfl
@[simp] theorem withPinch_sys (s : State) (x : Wins PinchRec) : (s.withPinch x).sys = s.sys := rfl
@[simp] theorem withPinch_supply (s : State) (x : Wins PinchRec) : (s.withPinch x).supply = s.supply := rfl
@[simp] theorem withPinch_ctx (s : State) (x : Wins PinchRec) : (s.withPinch x).ctx = s.ctx := rfl
@[simp] theorem withPinch_arb (s : State) (x : Wins PinchRec) : (s.withPinch x).arb = s.arb := rfl
@[simp] theorem withPinch_stages (s : State) (x : Wins PinchRec) : (s.withPinch x).stages = s.stages := rfl
@[simp] theorem withPinch_latches (s : State) (x : Wins PinchRec) : (s.withPinch x).latches = s.latches := rfl
@[simp] theorem withPinch_release (s : State) (x : Wins PinchRec) : (s.withPinch x).release = s.release := rfl
@[simp] theorem withPinch_groups (s : State) (x : Wins PinchRec) : (s.withPinch x).groups = s.groups := rfl
@[simp] theorem withPinch_presses (s : State) (x : Wins PinchRec) : (s.withPinch x).presses = s.presses := rfl
@[simp] theorem withPinch_child (s : State) (x : Wins PinchRec) : (s.withPinch x).child = s.child := rfl
@[simp] theorem withPinch_windows (s : State) (x : Wins PinchRec) : (s.withPinch x).windows = s.windows := rfl
@[simp] theorem withPinch_profiles (s : State) (x : Wins PinchRec) : (s.withPinch x).profiles = s.profiles := rfl
@[simp] theorem withPinch_chans (s : State) (x : Wins PinchRec) : (s.withPinch x).chans = s.chans := rfl
@[simp] theorem withPinch_comfort (s : State) (x : Wins PinchRec) : (s.withPinch x).comfort = s.comfort := rfl
@[simp] theorem withPinch_pinch (s : State) (x : Wins PinchRec) : (s.withPinch x).pinch = x := rfl
@[simp] theorem withPinch_fobs (s : State) (x : Wins PinchRec) : (s.withPinch x).fobs = s.fobs := rfl
@[simp] theorem withPinch_search (s : State) (x : Wins PinchRec) : (s.withPinch x).search = s.search := rfl
@[simp] theorem withPinch_tracker (s : State) (x : Wins PinchRec) : (s.withPinch x).tracker = s.tracker := rfl
@[simp] theorem withPinch_crash (s : State) (x : Wins PinchRec) : (s.withPinch x).crash = s.crash := rfl
@[simp] theorem withPinch_feedback (s : State) (x : Wins PinchRec) : (s.withPinch x).feedback = s.feedback := rfl
@[simp] theorem withPinch_store (s : State) (x : Wins PinchRec) : (s.withPinch x).store = s.store := rfl
@[simp] theorem withPinch_ports (s : State) (x : Wins PinchRec) : (s.withPinch x).ports = s.ports := rfl
@[simp] theorem withPinch_events (s : State) (x : Wins PinchRec) : (s.withPinch x).events = s.events := rfl
@[simp] theorem withPinch_ties (s : State) (x : Wins PinchRec) : (s.withPinch x).ties = s.ties := rfl
@[simp] theorem withFobs_pending (s : State) (x : Slots Fob) : (s.withFobs x).pending = s.pending := rfl
@[simp] theorem withFobs_now (s : State) (x : Slots Fob) : (s.withFobs x).now = s.now := rfl
@[simp] theorem withFobs_pins (s : State) (x : Slots Fob) : (s.withFobs x).pins = s.pins := rfl
@[simp] theorem withFobs_sys (s : State) (x : Slots Fob) : (s.withFobs x).sys = s.sys := rfl
@[simp] theorem withFobs_supply (s : State) (x : Slots Fob) : (s.withFobs x).supply = s.supply := rfl
@[simp] theorem withFobs_ctx (s : State) (x : Slots Fob) : (s.withFobs x).ctx = s.ctx := rfl
@[simp] theorem withFobs_arb (s : State) (x : Slots Fob) : (s.withFobs x).arb = s.arb := rfl
@[simp] theorem withFobs_stages (s : State) (x : Slots Fob) : (s.withFobs x).stages = s.stages := rfl
@[simp] theorem withFobs_latches (s : State) (x : Slots Fob) : (s.withFobs x).latches = s.latches := rfl
@[simp] theorem withFobs_release (s : State) (x : Slots Fob) : (s.withFobs x).release = s.release := rfl
@[simp] theorem withFobs_groups (s : State) (x : Slots Fob) : (s.withFobs x).groups = s.groups := rfl
@[simp] theorem withFobs_presses (s : State) (x : Slots Fob) : (s.withFobs x).presses = s.presses := rfl
@[simp] theorem withFobs_child (s : State) (x : Slots Fob) : (s.withFobs x).child = s.child := rfl
@[simp] theorem withFobs_windows (s : State) (x : Slots Fob) : (s.withFobs x).windows = s.windows := rfl
@[simp] theorem withFobs_profiles (s : State) (x : Slots Fob) : (s.withFobs x).profiles = s.profiles := rfl
@[simp] theorem withFobs_chans (s : State) (x : Slots Fob) : (s.withFobs x).chans = s.chans := rfl
@[simp] theorem withFobs_comfort (s : State) (x : Slots Fob) : (s.withFobs x).comfort = s.comfort := rfl
@[simp] theorem withFobs_pinch (s : State) (x : Slots Fob) : (s.withFobs x).pinch = s.pinch := rfl
@[simp] theorem withFobs_fobs (s : State) (x : Slots Fob) : (s.withFobs x).fobs = x := rfl
@[simp] theorem withFobs_search (s : State) (x : Slots Fob) : (s.withFobs x).search = s.search := rfl
@[simp] theorem withFobs_tracker (s : State) (x : Slots Fob) : (s.withFobs x).tracker = s.tracker := rfl
@[simp] theorem withFobs_crash (s : State) (x : Slots Fob) : (s.withFobs x).crash = s.crash := rfl
@[simp] theorem withFobs_feedback (s : State) (x : Slots Fob) : (s.withFobs x).feedback = s.feedback := rfl
@[simp] theorem withFobs_store (s : State) (x : Slots Fob) : (s.withFobs x).store = s.store := rfl
@[simp] theorem withFobs_ports (s : State) (x : Slots Fob) : (s.withFobs x).ports = s.ports := rfl
@[simp] theorem withFobs_events (s : State) (x : Slots Fob) : (s.withFobs x).events = s.events := rfl
@[simp] theorem withFobs_ties (s : State) (x : Slots Fob) : (s.withFobs x).ties = s.ties := rfl
@[simp] theorem withSearch_pending (s : State) (x : SearchRec) : (s.withSearch x).pending = s.pending := rfl
@[simp] theorem withSearch_now (s : State) (x : SearchRec) : (s.withSearch x).now = s.now := rfl
@[simp] theorem withSearch_pins (s : State) (x : SearchRec) : (s.withSearch x).pins = s.pins := rfl
@[simp] theorem withSearch_sys (s : State) (x : SearchRec) : (s.withSearch x).sys = s.sys := rfl
@[simp] theorem withSearch_supply (s : State) (x : SearchRec) : (s.withSearch x).supply = s.supply := rfl
@[simp] theorem withSearch_ctx (s : State) (x : SearchRec) : (s.withSearch x).ctx = s.ctx := rfl
@[simp] theorem withSearch_arb (s : State) (x : SearchRec) : (s.withSearch x).arb = s.arb := rfl
@[simp] theorem withSearch_stages (s : State) (x : SearchRec) : (s.withSearch x).stages = s.stages := rfl
@[simp] theorem withSearch_latches (s : State) (x : SearchRec) : (s.withSearch x).latches = s.latches := rfl
@[simp] theorem withSearch_release (s : State) (x : SearchRec) : (s.withSearch x).release = s.release := rfl
@[simp] theorem withSearch_groups (s : State) (x : SearchRec) : (s.withSearch x).groups = s.groups := rfl
@[simp] theorem withSearch_presses (s : State) (x : SearchRec) : (s.withSearch x).presses = s.presses := rfl
@[simp] theorem withSearch_child (s : State) (x : SearchRec) : (s.withSearch x).child = s.child := rfl
@[simp] theorem withSearch_windows (s : State) (x : SearchRec) : (s.withSearch x).windows = s.windows := rfl
@[simp] theorem withSearch_profiles (s : State) (x : SearchRec) : (s.withSearch x).profiles = s.profiles := rfl
@[simp] theorem withSearch_chans (s : State) (x : SearchRec) : (s.withSearch x).chans = s.chans := rfl
@[simp] theorem withSearch_comfort (s : State) (x : SearchRec) : (s.withSearch x).comfort = s.comfort := rfl
@[simp] theorem withSearch_pinch (s : State) (x : SearchRec) : (s.withSearch x).pinch = s.pinch := rfl
@[simp] theorem withSearch_fobs (s : State) (x : SearchRec) : (s.withSearch x).fobs = s.fobs := rfl
@[simp] theorem withSearch_search (s : State) (x : SearchRec) : (s.withSearch x).search = x := rfl
@[simp] theorem withSearch_tracker (s : State) (x : SearchRec) : (s.withSearch x).tracker = s.tracker := rfl
@[simp] theorem withSearch_crash (s : State) (x : SearchRec) : (s.withSearch x).crash = s.crash := rfl
@[simp] theorem withSearch_feedback (s : State) (x : SearchRec) : (s.withSearch x).feedback = s.feedback := rfl
@[simp] theorem withSearch_store (s : State) (x : SearchRec) : (s.withSearch x).store = s.store := rfl
@[simp] theorem withSearch_ports (s : State) (x : SearchRec) : (s.withSearch x).ports = s.ports := rfl
@[simp] theorem withSearch_events (s : State) (x : SearchRec) : (s.withSearch x).events = s.events := rfl
@[simp] theorem withSearch_ties (s : State) (x : SearchRec) : (s.withSearch x).ties = s.ties := rfl
@[simp] theorem withTracker_pending (s : State) (x : Tracker) : (s.withTracker x).pending = s.pending := rfl
@[simp] theorem withTracker_now (s : State) (x : Tracker) : (s.withTracker x).now = s.now := rfl
@[simp] theorem withTracker_pins (s : State) (x : Tracker) : (s.withTracker x).pins = s.pins := rfl
@[simp] theorem withTracker_sys (s : State) (x : Tracker) : (s.withTracker x).sys = s.sys := rfl
@[simp] theorem withTracker_supply (s : State) (x : Tracker) : (s.withTracker x).supply = s.supply := rfl
@[simp] theorem withTracker_ctx (s : State) (x : Tracker) : (s.withTracker x).ctx = s.ctx := rfl
@[simp] theorem withTracker_arb (s : State) (x : Tracker) : (s.withTracker x).arb = s.arb := rfl
@[simp] theorem withTracker_stages (s : State) (x : Tracker) : (s.withTracker x).stages = s.stages := rfl
@[simp] theorem withTracker_latches (s : State) (x : Tracker) : (s.withTracker x).latches = s.latches := rfl
@[simp] theorem withTracker_release (s : State) (x : Tracker) : (s.withTracker x).release = s.release := rfl
@[simp] theorem withTracker_groups (s : State) (x : Tracker) : (s.withTracker x).groups = s.groups := rfl
@[simp] theorem withTracker_presses (s : State) (x : Tracker) : (s.withTracker x).presses = s.presses := rfl
@[simp] theorem withTracker_child (s : State) (x : Tracker) : (s.withTracker x).child = s.child := rfl
@[simp] theorem withTracker_windows (s : State) (x : Tracker) : (s.withTracker x).windows = s.windows := rfl
@[simp] theorem withTracker_profiles (s : State) (x : Tracker) : (s.withTracker x).profiles = s.profiles := rfl
@[simp] theorem withTracker_chans (s : State) (x : Tracker) : (s.withTracker x).chans = s.chans := rfl
@[simp] theorem withTracker_comfort (s : State) (x : Tracker) : (s.withTracker x).comfort = s.comfort := rfl
@[simp] theorem withTracker_pinch (s : State) (x : Tracker) : (s.withTracker x).pinch = s.pinch := rfl
@[simp] theorem withTracker_fobs (s : State) (x : Tracker) : (s.withTracker x).fobs = s.fobs := rfl
@[simp] theorem withTracker_search (s : State) (x : Tracker) : (s.withTracker x).search = s.search := rfl
@[simp] theorem withTracker_tracker (s : State) (x : Tracker) : (s.withTracker x).tracker = x := rfl
@[simp] theorem withTracker_crash (s : State) (x : Tracker) : (s.withTracker x).crash = s.crash := rfl
@[simp] theorem withTracker_feedback (s : State) (x : Tracker) : (s.withTracker x).feedback = s.feedback := rfl
@[simp] theorem withTracker_store (s : State) (x : Tracker) : (s.withTracker x).store = s.store := rfl
@[simp] theorem withTracker_ports (s : State) (x : Tracker) : (s.withTracker x).ports = s.ports := rfl
@[simp] theorem withTracker_events (s : State) (x : Tracker) : (s.withTracker x).events = s.events := rfl
@[simp] theorem withTracker_ties (s : State) (x : Tracker) : (s.withTracker x).ties = s.ties := rfl
@[simp] theorem withCrash_pending (s : State) (x : CrashUnit) : (s.withCrash x).pending = s.pending := rfl
@[simp] theorem withCrash_now (s : State) (x : CrashUnit) : (s.withCrash x).now = s.now := rfl
@[simp] theorem withCrash_pins (s : State) (x : CrashUnit) : (s.withCrash x).pins = s.pins := rfl
@[simp] theorem withCrash_sys (s : State) (x : CrashUnit) : (s.withCrash x).sys = s.sys := rfl
@[simp] theorem withCrash_supply (s : State) (x : CrashUnit) : (s.withCrash x).supply = s.supply := rfl
@[simp] theorem withCrash_ctx (s : State) (x : CrashUnit) : (s.withCrash x).ctx = s.ctx := rfl
@[simp] theorem withCrash_arb (s : State) (x : CrashUnit) : (s.withCrash x).arb = s.arb := rfl
@[simp] theorem withCrash_stages (s : State) (x : CrashUnit) : (s.withCrash x).stages = s.stages := rfl
@[simp] theorem withCrash_latches (s : State) (x : CrashUnit) : (s.withCrash x).latches = s.latches := rfl
@[simp] theorem withCrash_release (s : State) (x : CrashUnit) : (s.withCrash x).release = s.release := rfl
@[simp] theorem withCrash_groups (s : State) (x : CrashUnit) : (s.withCrash x).groups = s.groups := rfl
@[simp] theorem withCrash_presses (s : State) (x : CrashUnit) : (s.withCrash x).presses = s.presses := rfl
@[simp] theorem withCrash_child (s : State) (x : CrashUnit) : (s.withCrash x).child = s.child := rfl
@[simp] theorem withCrash_windows (s : State) (x : CrashUnit) : (s.withCrash x).windows = s.windows := rfl
@[simp] theorem withCrash_profiles (s : State) (x : CrashUnit) : (s.withCrash x).profiles = s.profiles := rfl
@[simp] theorem withCrash_chans (s : State) (x : CrashUnit) : (s.withCrash x).chans = s.chans := rfl
@[simp] theorem withCrash_comfort (s : State) (x : CrashUnit) : (s.withCrash x).comfort = s.comfort := rfl
@[simp] theorem withCrash_pinch (s : State) (x : CrashUnit) : (s.withCrash x).pinch = s.pinch := rfl
@[simp] theorem withCrash_fobs (s : State) (x : CrashUnit) : (s.withCrash x).fobs = s.fobs := rfl
@[simp] theorem withCrash_search (s : State) (x : CrashUnit) : (s.withCrash x).search = s.search := rfl
@[simp] theorem withCrash_tracker (s : State) (x : CrashUnit) : (s.withCrash x).tracker = s.tracker := rfl
@[simp] theorem withCrash_crash (s : State) (x : CrashUnit) : (s.withCrash x).crash = x := rfl
@[simp] theorem withCrash_feedback (s : State) (x : CrashUnit) : (s.withCrash x).feedback = s.feedback := rfl
@[simp] theorem withCrash_store (s : State) (x : CrashUnit) : (s.withCrash x).store = s.store := rfl
@[simp] theorem withCrash_ports (s : State) (x : CrashUnit) : (s.withCrash x).ports = s.ports := rfl
@[simp] theorem withCrash_events (s : State) (x : CrashUnit) : (s.withCrash x).events = s.events := rfl
@[simp] theorem withCrash_ties (s : State) (x : CrashUnit) : (s.withCrash x).ties = s.ties := rfl
@[simp] theorem withFeedback_pending (s : State) (x : Feedback) : (s.withFeedback x).pending = s.pending := rfl
@[simp] theorem withFeedback_now (s : State) (x : Feedback) : (s.withFeedback x).now = s.now := rfl
@[simp] theorem withFeedback_pins (s : State) (x : Feedback) : (s.withFeedback x).pins = s.pins := rfl
@[simp] theorem withFeedback_sys (s : State) (x : Feedback) : (s.withFeedback x).sys = s.sys := rfl
@[simp] theorem withFeedback_supply (s : State) (x : Feedback) : (s.withFeedback x).supply = s.supply := rfl
@[simp] theorem withFeedback_ctx (s : State) (x : Feedback) : (s.withFeedback x).ctx = s.ctx := rfl
@[simp] theorem withFeedback_arb (s : State) (x : Feedback) : (s.withFeedback x).arb = s.arb := rfl
@[simp] theorem withFeedback_stages (s : State) (x : Feedback) : (s.withFeedback x).stages = s.stages := rfl
@[simp] theorem withFeedback_latches (s : State) (x : Feedback) : (s.withFeedback x).latches = s.latches := rfl
@[simp] theorem withFeedback_release (s : State) (x : Feedback) : (s.withFeedback x).release = s.release := rfl
@[simp] theorem withFeedback_groups (s : State) (x : Feedback) : (s.withFeedback x).groups = s.groups := rfl
@[simp] theorem withFeedback_presses (s : State) (x : Feedback) : (s.withFeedback x).presses = s.presses := rfl
@[simp] theorem withFeedback_child (s : State) (x : Feedback) : (s.withFeedback x).child = s.child := rfl
@[simp] theorem withFeedback_windows (s : State) (x : Feedback) : (s.withFeedback x).windows = s.windows := rfl
@[simp] theorem withFeedback_profiles (s : State) (x : Feedback) : (s.withFeedback x).profiles = s.profiles := rfl
@[simp] theorem withFeedback_chans (s : State) (x : Feedback) : (s.withFeedback x).chans = s.chans := rfl
@[simp] theorem withFeedback_comfort (s : State) (x : Feedback) : (s.withFeedback x).comfort = s.comfort := rfl
@[simp] theorem withFeedback_pinch (s : State) (x : Feedback) : (s.withFeedback x).pinch = s.pinch := rfl
@[simp] theorem withFeedback_fobs (s : State) (x : Feedback) : (s.withFeedback x).fobs = s.fobs := rfl
@[simp] theorem withFeedback_search (s : State) (x : Feedback) : (s.withFeedback x).search = s.search := rfl
@[simp] theorem withFeedback_tracker (s : State) (x : Feedback) : (s.withFeedback x).tracker = s.tracker := rfl
@[simp] theorem withFeedback_crash (s : State) (x : Feedback) : (s.withFeedback x).crash = s.crash := rfl
@[simp] theorem withFeedback_feedback (s : State) (x : Feedback) : (s.withFeedback x).feedback = x := rfl
@[simp] theorem withFeedback_store (s : State) (x : Feedback) : (s.withFeedback x).store = s.store := rfl
@[simp] theorem withFeedback_ports (s : State) (x : Feedback) : (s.withFeedback x).ports = s.ports := rfl
@[simp] theorem withFeedback_events (s : State) (x : Feedback) : (s.withFeedback x).events = s.events := rfl
@[simp] theorem withFeedback_ties (s : State) (x : Feedback) : (s.withFeedback x).ties = s.ties := rfl
@[simp] theorem withStore_pending (s : State) (x : Store) : (s.withStore x).pending = s.pending := rfl
@[simp] theorem withStore_now (s : State) (x : Store) : (s.withStore x).now = s.now := rfl
@[simp] theorem withStore_pins (s : State) (x : Store) : (s.withStore x).pins = s.pins := rfl
@[simp] theorem withStore_sys (s : State) (x : Store) : (s.withStore x).sys = s.sys := rfl
@[simp] theorem withStore_supply (s : State) (x : Store) : (s.withStore x).supply = s.supply := rfl
@[simp] theorem withStore_ctx (s : State) (x : Store) : (s.withStore x).ctx = s.ctx := rfl
@[simp] theorem withStore_arb (s : State) (x : Store) : (s.withStore x).arb = s.arb := rfl
@[simp] theorem withStore_stages (s : State) (x : Store) : (s.withStore x).stages = s.stages := rfl
@[simp] theorem withStore_latches (s : State) (x : Store) : (s.withStore x).latches = s.latches := rfl
@[simp] theorem withStore_release (s : State) (x : Store) : (s.withStore x).release = s.release := rfl
@[simp] theorem withStore_groups (s : State) (x : Store) : (s.withStore x).groups = s.groups := rfl
@[simp] theorem withStore_presses (s : State) (x : Store) : (s.withStore x).presses = s.presses := rfl
@[simp] theorem withStore_child (s : State) (x : Store) : (s.withStore x).child = s.child := rfl
@[simp] theorem withStore_windows (s : State) (x : Store) : (s.withStore x).windows = s.windows := rfl
@[simp] theorem withStore_profiles (s : State) (x : Store) : (s.withStore x).profiles = s.profiles := rfl
@[simp] theorem withStore_chans (s : State) (x : Store) : (s.withStore x).chans = s.chans := rfl
@[simp] theorem withStore_comfort (s : State) (x : Store) : (s.withStore x).comfort = s.comfort := rfl
@[simp] theorem withStore_pinch (s : State) (x : Store) : (s.withStore x).pinch = s.pinch := rfl
@[simp] theorem withStore_fobs (s : State) (x : Store) : (s.withStore x).fobs = s.fobs := rfl
@[simp] theorem withStore_search (s : State) (x : Store) : (s.withStore x).search = s.search := rfl
@[simp] theorem withStore_tracker (s : State) (x : Store) : (s.withStore x).tracker = s.tracker := rfl
@[simp] theorem withStore_crash (s : State) (x : Store) : (s.withStore x).crash = s.crash := rfl
@[simp] theorem withStore_feedback (s : State) (x : Store) : (s.withStore x).feedback = s.feedback := rfl
@[simp] theorem withStore_store (s : State) (x : Store) : (s.withStore x).store = x := rfl
@[simp] theorem withStore_ports (s : State) (x : Store) : (s.withStore x).ports = s.ports := rfl
@[simp] theorem withStore_events (s : State) (x : Store) : (s.withStore x).events = s.events := rfl
@[simp] theorem withStore_ties (s : State) (x : Store) : (s.withStore x).ties = s.ties := rfl
@[simp] theorem withPorts_pending (s : State) (x : Ports PortUnit) : (s.withPorts x).pending = s.pending := rfl
@[simp] theorem withPorts_now (s : State) (x : Ports PortUnit) : (s.withPorts x).now = s.now := rfl
@[simp] theorem withPorts_pins (s : State) (x : Ports PortUnit) : (s.withPorts x).pins = s.pins := rfl
@[simp] theorem withPorts_sys (s : State) (x : Ports PortUnit) : (s.withPorts x).sys = s.sys := rfl
@[simp] theorem withPorts_supply (s : State) (x : Ports PortUnit) : (s.withPorts x).supply = s.supply := rfl
@[simp] theorem withPorts_ctx (s : State) (x : Ports PortUnit) : (s.withPorts x).ctx = s.ctx := rfl
@[simp] theorem withPorts_arb (s : State) (x : Ports PortUnit) : (s.withPorts x).arb = s.arb := rfl
@[simp] theorem withPorts_stages (s : State) (x : Ports PortUnit) : (s.withPorts x).stages = s.stages := rfl
@[simp] theorem withPorts_latches (s : State) (x : Ports PortUnit) : (s.withPorts x).latches = s.latches := rfl
@[simp] theorem withPorts_release (s : State) (x : Ports PortUnit) : (s.withPorts x).release = s.release := rfl
@[simp] theorem withPorts_groups (s : State) (x : Ports PortUnit) : (s.withPorts x).groups = s.groups := rfl
@[simp] theorem withPorts_presses (s : State) (x : Ports PortUnit) : (s.withPorts x).presses = s.presses := rfl
@[simp] theorem withPorts_child (s : State) (x : Ports PortUnit) : (s.withPorts x).child = s.child := rfl
@[simp] theorem withPorts_windows (s : State) (x : Ports PortUnit) : (s.withPorts x).windows = s.windows := rfl
@[simp] theorem withPorts_profiles (s : State) (x : Ports PortUnit) : (s.withPorts x).profiles = s.profiles := rfl
@[simp] theorem withPorts_chans (s : State) (x : Ports PortUnit) : (s.withPorts x).chans = s.chans := rfl
@[simp] theorem withPorts_comfort (s : State) (x : Ports PortUnit) : (s.withPorts x).comfort = s.comfort := rfl
@[simp] theorem withPorts_pinch (s : State) (x : Ports PortUnit) : (s.withPorts x).pinch = s.pinch := rfl
@[simp] theorem withPorts_fobs (s : State) (x : Ports PortUnit) : (s.withPorts x).fobs = s.fobs := rfl
@[simp] theorem withPorts_search (s : State) (x : Ports PortUnit) : (s.withPorts x).search = s.search := rfl
@[simp] theorem withPorts_tracker (s : State) (x : Ports PortUnit) : (s.withPorts x).tracker = s.tracker := rfl
@[simp] theorem withPorts_crash (s : State) (x : Ports PortUnit) : (s.withPorts x).crash = s.crash := rfl
@[simp] theorem withPorts_feedback (s : State) (x : Ports PortUnit) : (s.withPorts x).feedback = s.feedback := rfl
@[simp] theorem withPorts_store (s : State) (x : Ports PortUnit) : (s.withPorts x).store = s.store := rfl
@[simp] theorem withPorts_ports (s : State) (x : Ports PortUnit) : (s.withPorts x).ports = x := rfl
@[simp] theorem withPorts_events (s : State) (x : Ports PortUnit) : (s.withPorts x).events = s.events := rfl
@[simp] theorem withPorts_ties (s : State) (x : Ports PortUnit) : (s.withPorts x).ties = s.ties := rfl
@[simp] theorem withEvents_pending (s : State) (x : Ports EventRec) : (s.withEvents x).pending = s.pending := rfl
@[simp] theorem withEvents_now (s : State) (x : Ports EventRec) : (s.withEvents x).now = s.now := rfl
@[simp] theorem withEvents_pins (s : State) (x : Ports EventRec) : (s.withEvents x).pins = s.pins := rfl
@[simp] theorem withEvents_sys (s : State) (x : Ports EventRec) : (s.withEvents x).sys = s.sys := rfl
@[simp] theorem withEvents_supply (s : State) (x : Ports EventRec) : (s.withEvents x).supply = s.supply := rfl
@[simp] theorem withEvents_ctx (s : State) (x : Ports EventRec) : (s.withEvents x).ctx = s.ctx := rfl
@[simp] theorem withEvents_arb (s : State) (x : Ports EventRec) : (s.withEvents x).arb = s.arb := rfl
@[simp] theorem withEvents_stages (s : State) (x : Ports EventRec) : (s.withEvents x).stages = s.stages := rfl
@[simp] theorem withEvents_latches (s : State) (x : Ports EventRec) : (s.withEvents x).latches = s.latches := rfl
@[simp] theorem withEvents_release (s : State) (x : Ports EventRec) : (s.withEvents x).release = s.release := rfl
@[simp] theorem withEvents_groups (s : State) (x : Ports EventRec) : (s.withEvents x).groups = s.groups := rfl
@[simp] theorem withEvents_presses (s : State) (x : Ports EventRec) : (s.withEvents x).presses = s.presses := rfl
@[simp] theorem withEvents_child (s : State) (x : Ports EventRec) : (s.withEvents x).child = s.child := rfl
@[simp] theorem withEvents_windows (s : State) (x : Ports EventRec) : (s.withEvents x).windows = s.windows := rfl
@[simp] theorem withEvents_profiles (s : State) (x : Ports EventRec) : (s.withEvents x).profiles = s.profiles := rfl
@[simp] theorem withEvents_chans (s : State) (x : Ports EventRec) : (s.withEvents x).chans = s.chans := rfl
@[simp] theorem withEvents_comfort (s : State) (x : Ports EventRec) : (s.withEvents x).comfort = s.comfort := rfl
@[simp] theorem withEvents_pinch (s : State) (x : Ports EventRec) : (s.withEvents x).pinch = s.pinch := rfl
@[simp] theorem withEvents_fobs (s : State) (x : Ports EventRec) : (s.withEvents x).fobs = s.fobs := rfl
@[simp] theorem withEvents_search (s : State) (x : Ports EventRec) : (s.withEvents x).search = s.search := rfl
@[simp] theorem withEvents_tracker (s : State) (x : Ports EventRec) : (s.withEvents x).tracker = s.tracker := rfl
@[simp] theorem withEvents_crash (s : State) (x : Ports EventRec) : (s.withEvents x).crash = s.crash := rfl
@[simp] theorem withEvents_feedback (s : State) (x : Ports EventRec) : (s.withEvents x).feedback = s.feedback := rfl
@[simp] theorem withEvents_store (s : State) (x : Ports EventRec) : (s.withEvents x).store = s.store := rfl
@[simp] theorem withEvents_ports (s : State) (x : Ports EventRec) : (s.withEvents x).ports = s.ports := rfl
@[simp] theorem withEvents_events (s : State) (x : Ports EventRec) : (s.withEvents x).events = x := rfl
@[simp] theorem withEvents_ties (s : State) (x : Ports EventRec) : (s.withEvents x).ties = s.ties := rfl
@[simp] theorem withTies_pending (s : State) (x : Nat) : (s.withTies x).pending = s.pending := rfl
@[simp] theorem withTies_now (s : State) (x : Nat) : (s.withTies x).now = s.now := rfl
@[simp] theorem withTies_pins (s : State) (x : Nat) : (s.withTies x).pins = s.pins := rfl
@[simp] theorem withTies_sys (s : State) (x : Nat) : (s.withTies x).sys = s.sys := rfl
@[simp] theorem withTies_supply (s : State) (x : Nat) : (s.withTies x).supply = s.supply := rfl
@[simp] theorem withTies_ctx (s : State) (x : Nat) : (s.withTies x).ctx = s.ctx := rfl
@[simp] theorem withTies_arb (s : State) (x : Nat) : (s.withTies x).arb = s.arb := rfl
@[simp] theorem withTies_stages (s : State) (x : Nat) : (s.withTies x).stages = s.stages := rfl
@[simp] theorem withTies_latches (s : State) (x : Nat) : (s.withTies x).latches = s.latches := rfl
@[simp] theorem withTies_release (s : State) (x : Nat) : (s.withTies x).release = s.release := rfl
@[simp] theorem withTies_groups (s : State) (x : Nat) : (s.withTies x).groups = s.groups := rfl
@[simp] theorem withTies_presses (s : State) (x : Nat) : (s.withTies x).presses = s.presses := rfl
@[simp] theorem withTies_child (s : State) (x : Nat) : (s.withTies x).child = s.child := rfl
@[simp] theorem withTies_windows (s : State) (x : Nat) : (s.withTies x).windows = s.windows := rfl
@[simp] theorem withTies_profiles (s : State) (x : Nat) : (s.withTies x).profiles = s.profiles := rfl
@[simp] theorem withTies_chans (s : State) (x : Nat) : (s.withTies x).chans = s.chans := rfl
@[simp] theorem withTies_comfort (s : State) (x : Nat) : (s.withTies x).comfort = s.comfort := rfl
@[simp] theorem withTies_pinch (s : State) (x : Nat) : (s.withTies x).pinch = s.pinch := rfl
@[simp] theorem withTies_fobs (s : State) (x : Nat) : (s.withTies x).fobs = s.fobs := rfl
@[simp] theorem withTies_search (s : State) (x : Nat) : (s.withTies x).search = s.search := rfl
@[simp] theorem withTies_tracker (s : State) (x : Nat) : (s.withTies x).tracker = s.tracker := rfl
@[simp] theorem withTies_crash (s : State) (x : Nat) : (s.withTies x).crash = s.crash := rfl
@[simp] theorem withTies_feedback (s : State) (x : Nat) : (s.withTies x).feedback = s.feedback := rfl
@[simp] theorem withTies_store (s : State) (x : Nat) : (s.withTies x).store = s.store := rfl
@[simp] theorem withTies_ports (s : State) (x : Nat) : (s.withTies x).ports = s.ports := rfl
@[simp] theorem withTies_events (s : State) (x : Nat) : (s.withTies x).events = s.events := rfl
@[simp] theorem withTies_ties (s : State) (x : Nat) : (s.withTies x).ties = x := rfl

end State
end Machine
end Sys2Proof
end

