-- ==== Sys2Proof/Laws/Forms.lean ====
section
/-! SUPPORT. The forms of a command in the part awake: what the shared wrappers answer. -/

namespace Sys2Proof.Machine

variable {s : State}

/-! ### What the clock and the taking of a request leave -/

@[simp] theorem advance_now (dt : Time) : (advance dt s).now = s.now + dt := rfl

@[simp] theorem reach_now (d : Time) : (reach d s).now = max s.now d := rfl

@[simp] theorem advance_pending (dt : Time) : (advance dt s).pending = s.pending := rfl

@[simp] theorem reach_pending (d : Time) : (reach d s).pending = s.pending := rfl

@[simp] theorem advance_pins (dt : Time) : (advance dt s).pins = s.pins := rfl

@[simp] theorem reach_pins (d : Time) : (reach d s).pins = s.pins := rfl

@[simp] theorem advance_sys (dt : Time) : (advance dt s).sys = s.sys := rfl

@[simp] theorem reach_sys (d : Time) : (reach d s).sys = s.sys := rfl

@[simp] theorem advance_supply (dt : Time) : (advance dt s).supply = s.supply := rfl

@[simp] theorem reach_supply (d : Time) : (reach d s).supply = s.supply := rfl

@[simp] theorem advance_ctx (dt : Time) : (advance dt s).ctx = s.ctx := rfl

@[simp] theorem reach_ctx (d : Time) : (reach d s).ctx = s.ctx := rfl

@[simp] theorem advance_arb (dt : Time) : (advance dt s).arb = s.arb := rfl

@[simp] theorem reach_arb (d : Time) : (reach d s).arb = s.arb := rfl

@[simp] theorem advance_stages (dt : Time) : (advance dt s).stages = s.stages := rfl

@[simp] theorem reach_stages (d : Time) : (reach d s).stages = s.stages := rfl

@[simp] theorem advance_latches (dt : Time) : (advance dt s).latches = s.latches := rfl

@[simp] theorem reach_latches (d : Time) : (reach d s).latches = s.latches := rfl

@[simp] theorem advance_release (dt : Time) : (advance dt s).release = s.release := rfl

@[simp] theorem reach_release (d : Time) : (reach d s).release = s.release := rfl

@[simp] theorem advance_groups (dt : Time) : (advance dt s).groups = s.groups := rfl

@[simp] theorem reach_groups (d : Time) : (reach d s).groups = s.groups := rfl

@[simp] theorem advance_presses (dt : Time) : (advance dt s).presses = s.presses := rfl

@[simp] theorem reach_presses (d : Time) : (reach d s).presses = s.presses := rfl

@[simp] theorem advance_child (dt : Time) : (advance dt s).child = s.child := rfl

@[simp] theorem reach_child (d : Time) : (reach d s).child = s.child := rfl

@[simp] theorem advance_windows (dt : Time) : (advance dt s).windows = s.windows := rfl

@[simp] theorem reach_windows (d : Time) : (reach d s).windows = s.windows := rfl

@[simp] theorem advance_profiles (dt : Time) : (advance dt s).profiles = s.profiles := rfl

@[simp] theorem reach_profiles (d : Time) : (reach d s).profiles = s.profiles := rfl

@[simp] theorem advance_chans (dt : Time) : (advance dt s).chans = s.chans := rfl

@[simp] theorem reach_chans (d : Time) : (reach d s).chans = s.chans := rfl

@[simp] theorem advance_comfort (dt : Time) : (advance dt s).comfort = s.comfort := rfl

@[simp] theorem reach_comfort (d : Time) : (reach d s).comfort = s.comfort := rfl

@[simp] theorem advance_pinch (dt : Time) : (advance dt s).pinch = s.pinch := rfl

@[simp] theorem reach_pinch (d : Time) : (reach d s).pinch = s.pinch := rfl

@[simp] theorem advance_fobs (dt : Time) : (advance dt s).fobs = s.fobs := rfl

@[simp] theorem reach_fobs (d : Time) : (reach d s).fobs = s.fobs := rfl

@[simp] theorem advance_search (dt : Time) : (advance dt s).search = s.search := rfl

@[simp] theorem reach_search (d : Time) : (reach d s).search = s.search := rfl

@[simp] theorem advance_tracker (dt : Time) : (advance dt s).tracker = s.tracker := rfl

@[simp] theorem reach_tracker (d : Time) : (reach d s).tracker = s.tracker := rfl

@[simp] theorem advance_crash (dt : Time) : (advance dt s).crash = s.crash := rfl

@[simp] theorem reach_crash (d : Time) : (reach d s).crash = s.crash := rfl

@[simp] theorem advance_feedback (dt : Time) : (advance dt s).feedback = s.feedback := rfl

@[simp] theorem reach_feedback (d : Time) : (reach d s).feedback = s.feedback := rfl

@[simp] theorem advance_store (dt : Time) : (advance dt s).store = s.store := rfl

@[simp] theorem reach_store (d : Time) : (reach d s).store = s.store := rfl

@[simp] theorem advance_ports (dt : Time) : (advance dt s).ports = s.ports := rfl

@[simp] theorem reach_ports (d : Time) : (reach d s).ports = s.ports := rfl

@[simp] theorem advance_events (dt : Time) : (advance dt s).events = s.events := rfl

@[simp] theorem reach_events (d : Time) : (reach d s).events = s.events := rfl

@[simp] theorem advance_ties (dt : Time) : (advance dt s).ties = s.ties := rfl

@[simp] theorem reach_ties (d : Time) : (reach d s).ties = s.ties := rfl

/-- A request is taken with the clock, the pins, the receiver and the staleness timer moved, and nothing else. -/
theorem atOwner_eq (dt : Time) (p : Port) : ∃ c pins ports, c.ignition = s.ctx.ignition ∧ c.speed = s.ctx.speed ∧
    c.fresh = s.ctx.fresh ∧ c.retainedDue = s.ctx.retainedDue ∧
    atOwner dt p s = { s with now := s.now + dt, ctx := c, pins := pins, ports := ports } := by
  unfold atOwner csRise advance restartStaleness
  dsimp only
  split
  · split <;> (refine ⟨_, _, _, ?_, ?_, ?_, ?_, rfl⟩ <;> rfl)
  · refine ⟨_, _, _, ?_, ?_, ?_, ?_, rfl⟩ <;> rfl

@[simp] theorem atOwner_now (dt : Time) (p : Port) : (atOwner dt p s).now = s.now + dt := by
  obtain ⟨c, x, y, -, -, -, -, h⟩ := atOwner_eq (s := s) dt p
  rw [h]

@[simp] theorem atOwner_ignition (dt : Time) (p : Port) : (atOwner dt p s).ctx.ignition = s.ctx.ignition := by
  obtain ⟨c, x, y, e, -, -, -, h⟩ := atOwner_eq (s := s) dt p
  rw [h, ← e]

@[simp] theorem atOwner_speed (dt : Time) (p : Port) : (atOwner dt p s).ctx.speed = s.ctx.speed := by
  obtain ⟨c, x, y, -, e, -, -, h⟩ := atOwner_eq (s := s) dt p
  rw [h, ← e]

@[simp] theorem atOwner_fresh (dt : Time) (p : Port) : (atOwner dt p s).ctx.fresh = s.ctx.fresh := by
  obtain ⟨c, x, y, -, -, e, -, h⟩ := atOwner_eq (s := s) dt p
  rw [h, ← e]

@[simp] theorem atOwner_effSpeed (dt : Time) (p : Port) : (atOwner dt p s).effSpeed = s.effSpeed := by
  simp only [State.effSpeed, atOwner_fresh, atOwner_speed]

@[simp] theorem atOwner_pending (dt : Time) (p : Port) : (atOwner dt p s).pending = s.pending := by
  obtain ⟨c, x, y, -, -, -, -, h⟩ := atOwner_eq (s := s) dt p
  rw [h]

@[simp] theorem atOwner_sys (dt : Time) (p : Port) : (atOwner dt p s).sys = s.sys := by
  obtain ⟨c, x, y, -, -, -, -, h⟩ := atOwner_eq (s := s) dt p
  rw [h]

@[simp] theorem atOwner_supply (dt : Time) (p : Port) : (atOwner dt p s).supply = s.supply := by
  obtain ⟨c, x, y, -, -, -, -, h⟩ := atOwner_eq (s := s) dt p
  rw [h]

@[simp] theorem atOwner_arb (dt : Time) (p : Port) : (atOwner dt p s).arb = s.arb := by
  obtain ⟨c, x, y, -, -, -, -, h⟩ := atOwner_eq (s := s) dt p
  rw [h]

@[simp] theorem atOwner_stages (dt : Time) (p : Port) : (atOwner dt p s).stages = s.stages := by
  obtain ⟨c, x, y, -, -, -, -, h⟩ := atOwner_eq (s := s) dt p
  rw [h]

@[simp] theorem atOwner_latches (dt : Time) (p : Port) : (atOwner dt p s).latches = s.latches := by
  obtain ⟨c, x, y, -, -, -, -, h⟩ := atOwner_eq (s := s) dt p
  rw [h]

@[simp] theorem atOwner_release (dt : Time) (p : Port) : (atOwner dt p s).release = s.release := by
  obtain ⟨c, x, y, -, -, -, -, h⟩ := atOwner_eq (s := s) dt p
  rw [h]

@[simp] theorem atOwner_groups (dt : Time) (p : Port) : (atOwner dt p s).groups = s.groups := by
  obtain ⟨c, x, y, -, -, -, -, h⟩ := atOwner_eq (s := s) dt p
  rw [h]

@[simp] theorem atOwner_presses (dt : Time) (p : Port) : (atOwner dt p s).presses = s.presses := by
  obtain ⟨c, x, y, -, -, -, -, h⟩ := atOwner_eq (s := s) dt p
  rw [h]

@[simp] theorem atOwner_child (dt : Time) (p : Port) : (atOwner dt p s).child = s.child := by
  obtain ⟨c, x, y, -, -, -, -, h⟩ := atOwner_eq (s := s) dt p
  rw [h]

@[simp] theorem atOwner_windows (dt : Time) (p : Port) : (atOwner dt p s).windows = s.windows := by
  obtain ⟨c, x, y, -, -, -, -, h⟩ := atOwner_eq (s := s) dt p
  rw [h]

@[simp] theorem atOwner_profiles (dt : Time) (p : Port) : (atOwner dt p s).profiles = s.profiles := by
  obtain ⟨c, x, y, -, -, -, -, h⟩ := atOwner_eq (s := s) dt p
  rw [h]

@[simp] theorem atOwner_chans (dt : Time) (p : Port) : (atOwner dt p s).chans = s.chans := by
  obtain ⟨c, x, y, -, -, -, -, h⟩ := atOwner_eq (s := s) dt p
  rw [h]

@[simp] theorem atOwner_comfort (dt : Time) (p : Port) : (atOwner dt p s).comfort = s.comfort := by
  obtain ⟨c, x, y, -, -, -, -, h⟩ := atOwner_eq (s := s) dt p
  rw [h]

@[simp] theorem atOwner_pinch (dt : Time) (p : Port) : (atOwner dt p s).pinch = s.pinch := by
  obtain ⟨c, x, y, -, -, -, -, h⟩ := atOwner_eq (s := s) dt p
  rw [h]

@[simp] theorem atOwner_fobs (dt : Time) (p : Port) : (atOwner dt p s).fobs = s.fobs := by
  obtain ⟨c, x, y, -, -, -, -, h⟩ := atOwner_eq (s := s) dt p
  rw [h]

@[simp] theorem atOwner_search (dt : Time) (p : Port) : (atOwner dt p s).search = s.search := by
  obtain ⟨c, x, y, -, -, -, -, h⟩ := atOwner_eq (s := s) dt p
  rw [h]

@[simp] theorem atOwner_tracker (dt : Time) (p : Port) : (atOwner dt p s).tracker = s.tracker := by
  obtain ⟨c, x, y, -, -, -, -, h⟩ := atOwner_eq (s := s) dt p
  rw [h]

@[simp] theorem atOwner_crash (dt : Time) (p : Port) : (atOwner dt p s).crash = s.crash := by
  obtain ⟨c, x, y, -, -, -, -, h⟩ := atOwner_eq (s := s) dt p
  rw [h]

@[simp] theorem atOwner_feedback (dt : Time) (p : Port) : (atOwner dt p s).feedback = s.feedback := by
  obtain ⟨c, x, y, -, -, -, -, h⟩ := atOwner_eq (s := s) dt p
  rw [h]

@[simp] theorem atOwner_store (dt : Time) (p : Port) : (atOwner dt p s).store = s.store := by
  obtain ⟨c, x, y, -, -, -, -, h⟩ := atOwner_eq (s := s) dt p
  rw [h]

@[simp] theorem atOwner_events (dt : Time) (p : Port) : (atOwner dt p s).events = s.events := by
  obtain ⟨c, x, y, -, -, -, -, h⟩ := atOwner_eq (s := s) dt p
  rw [h]

@[simp] theorem atOwner_ties (dt : Time) (p : Port) : (atOwner dt p s).ties = s.ties := by
  obtain ⟨c, x, y, -, -, -, -, h⟩ := atOwner_eq (s := s) dt p
  rw [h]

@[simp] theorem atOwner_cfg (dt : Time) (p : Port) : (atOwner dt p s).cfg = s.cfg := by
  simp only [State.cfg, State.row, atOwner_store]

/-! ### The forms -/

theorem finish_awake (act : State → State) (h : s.sys.inReset = false) : finish act s = .next (refreshPark (act s)) := by
  simp [finish, h]

theorem onReport_awake (dt : Time) (act : State → State) (h : s.sys.inReset = false) :
    onReport dt act s = .next (refreshPark (act (advance dt s))) := finish_awake act h

/-- An input change in RUN. -/
theorem onInput_awake (dt : Time) (pin : Pins → Pins) (act : State → State) (h : Awake s) :
    onInput dt pin act s = .next (refreshPark (act (advance dt (s.withPins (pin s.pins))))) := by
  unfold onInput
  rw [onReport_awake _ _ (by simpa using h.1)]
  simp [h.2]

/-- A change of an input with a wake mask bit, in RUN. -/
theorem onMaskedInput_awake (dt : Time) (b : Nat) (pin : Pins → Pins) (act : State → State) (h : Awake s) :
    onMaskedInput dt b pin act s = .next (refreshPark (act (advance dt (s.withPins (pin s.pins))))) := by
  unfold onMaskedInput
  rw [onInput_awake _ _ _ h]
  simp [h.2]

/-- An input change in STARTING moves the pin alone (R199). -/
theorem onInput_starting (dt : Time) (pin : Pins → Pins) (act : State → State) (h : s.sys.mode = .starting)
    (hr : s.sys.inReset = false) : onInput dt pin act s = .next (refreshPark (advance dt (s.withPins (pin s.pins)))) := by
  unfold onInput
  rw [onReport_awake _ _ (by simpa using hr)]
  simp [h]

/-- An input change while brown-out reset is in force moves the pin and the clock alone. -/
theorem onInput_inReset (dt : Time) (pin : Pins → Pins) (act : State → State) (h : s.sys.inReset = true) :
    onInput dt pin act s = .next (advance dt (s.withPins (pin s.pins))) := by
  simp [onInput, onReport, finish, h]

theorem onMaskedInput_inReset (dt : Time) (b : Nat) (pin : Pins → Pins) (act : State → State)
    (h : s.sys.inReset = true) : onMaskedInput dt b pin act s = .next (advance dt (s.withPins (pin s.pins))) :=
  onInput_inReset _ _ _ h

theorem onMaskedInput_starting (dt : Time) (b : Nat) (pin : Pins → Pins) (act : State → State)
    (h : s.sys.mode = .starting) (hr : s.sys.inReset = false) :
    onMaskedInput dt b pin act s = .next (refreshPark (advance dt (s.withPins (pin s.pins)))) :=
  onInput_starting _ _ _ h hr

/-- In PARK an input whose wake mask bit is clear moves the pin and the clock alone (R202). -/
theorem onMaskedInput_ignored (dt : Time) (b : Nat) (pin : Pins → Pins) (act : State → State)
    (h : s.sys.inReset = false) (hm : s.sys.mode = .park) (hb : s.cfg.wakeBit b = false) :
    onMaskedInput dt b pin act s = .next (refreshPark (advance dt (s.withPins (pin s.pins)))) := by
  unfold onMaskedInput onInput
  rw [onReport_awake _ _ (by simpa using h)]
  have : (advance dt (s.withPins (pin s.pins))).cfg = s.cfg := rfl
  simp [hm, this, hb]

/-- The part right after the return from PARK (R202). -/
theorem wake_parked (h : s.sys.mode = .park) :
    wake s = captureAll .wake ((s.withSys { s.sys with mode := .run, park := .stopped }).withSupply
      { s.supply with sampleDue := s.now + msec 5 }) := by
  unfold wake
  rw [h]

/-- Outside PARK a wake source changes nothing (R202). -/
theorem wake_running (h : s.sys.mode = .run) : wake s = s := by
  unfold wake
  rw [h]

/-- In PARK an input whose wake mask bit is set acts after the return to RUN (R202). -/
theorem onMaskedInput_woken (dt : Time) (b : Nat) (pin : Pins → Pins) (act : State → State)
    (h : s.sys.inReset = false) (hm : s.sys.mode = .park) (hb : s.cfg.wakeBit b = true) :
    onMaskedInput dt b pin act s = onMaskedInput 0 b pin act (wake (advance dt s)) := by
  have e := wake_parked (s := advance dt s) hm
  have e2 : wake (advance dt (s.withPins (pin s.pins))) = (wake (advance dt s)).withPins (pin s.pins) := by
    rw [e, wake_parked (s := advance dt (s.withPins (pin s.pins))) hm]
    rfl
  have hr : (wake (advance dt s)).sys.inReset = false := by rw [e]; exact h
  have hr2 : (wake (advance dt s)).sys.mode = .run := by rw [e]; rfl
  rw [onMaskedInput_awake _ _ _ _ ⟨hr, hr2⟩]
  unfold onMaskedInput onInput
  rw [onReport_awake _ _ (by simpa using h)]
  have : (advance dt (s.withPins (pin s.pins))).cfg = s.cfg := rfl
  have hp : (wake (advance dt s)).pins = s.pins := by rw [e]; rfl
  simp [hm, this, hb, e2, hp]
  rfl

theorem onTimer_due (d : Time) (act : State → State) : onTimer (some d) act s = .next (refreshPark (act (reach d s))) := rfl

theorem onTimer_stopped (act : State → State) : onTimer none act s = .next s := rfl

/-- A pulse of CS on a port that receives. -/
theorem onPulse_receiving (dt : Time) (p : Port) (judge : State → State) (h : Receiving s p) :
    onPulse dt p judge s = .next (refreshPark (judge (csRise p (advance dt s)))) := by
  have h1 : s.sys.inReset = false := h.1.1
  have h2 : (s.ports.get p).receiving = true := h.2
  simp [onPulse, endPulse, h1, h2]

/-- The state in which a request of `c` is taken, and its answer, once a port that receives hands a frame on. -/
theorem onRequest_receiving (dt : Time) (p : Port) (c : Byte) (l : List Byte) (f : Owner) (h : Receiving s p)
    (hl : l.length ≤ 14) :
    onRequest dt p c l f s =
      .next (answered p c (dispatch (some f) p c l (atOwner dt p s)).2 (dispatch (some f) p c l (atOwner dt p s)).1) := by
  have hm : (csRise p (advance dt s)).sys.mode = .run := h.1.2
  unfold onRequest
  rw [onPulse_receiving _ _ _ h]
  simp [hl, takeFrame, hm, atOwner, answered]

theorem atOwner_permitted (dt : Time) (p q : Port) (g : Nat) : (atOwner dt p s).permitted q g = s.permitted q g := by
  simp only [State.permitted, State.cfg, State.row, atOwner_store]

/-- A request that is admitted reaches its owner. -/
theorem onRequest_admitted (dt : Time) (p : Port) (c : Byte) (l : List Byte) (f : Owner) (h : Receiving s p)
    (ha : Admitted s p (groupOfCode c)) (hl : l.length ≤ 14) :
    onRequest dt p c l f s = .next (answered p c (f p l (atOwner dt p s)).2 (f p l (atOwner dt p s)).1) := by
  rw [onRequest_receiving _ _ _ _ _ h hl]
  have h1 : (atOwner dt p s).permitted p (groupOfCode c) = true := by rw [atOwner_permitted]; exact ha.1
  rcases ha.2 with h0 | h0
  · rw [h0] at h1
    simp [dispatch, h1, h0]
  · simp [dispatch, h1, h0]

/-- Every request command takes the one form of a request. -/
theorem exec_request {dt : Time} {p : Port} {c : Byte} {l : List Byte} {i : Instr} (h : RequestOf dt p l c i)
    (s : State) : ∃ f, exec i s = onRequest dt p c l f s := by
  cases h <;> exact ⟨_, rfl⟩

end Sys2Proof.Machine
end

