-- ==== Sys2Proof/Laws/Effects.lean ====
section
/-! SUPPORT. What shared operations leave: the part awake, store writes, the record keeping of an end report (events, groups,
feedback, store), revocation, the channels of a window, and the tables of rows. -/

namespace Sys2Proof.Machine

/-! ### Awake -/

/-- Outside PARK a wake changes nothing. -/
theorem wake_of_ne_park {s : State} (h : s.sys.mode ≠ .park) : wake s = s := by
  unfold wake
  split
  · contradiction
  · rfl

theorem wake_mode {s : State} (h : s.sys.mode = .park) : (wake s).sys.mode = .run := by
  rw [wake_parked h]; rfl

/-- In RUN an offer is the capture alone. -/
theorem offer_run {e : Ev} {s : State} (h : s.sys.mode = .run) : offer e s = captureAll e s := by
  unfold offer; rw [wake_running h]

/-- A capture offers the kind to each port's event record. -/
theorem captureAll_get (e : Ev) (s : State) (p : Port) : (captureAll e s).events.get p = (s.events.get p).capture e := by
  cases p <;> rfl

/-! ### Tables -/

@[simp] theorem tableOf_get {α : Type} (n : Nat) (f : Fin n → α) (z : Fin n) : (tableOf n f)[z] = f z := by
  unfold tableOf; simp

theorem get_set_fin {α : Type} {n : Nat} (v : Vector α n) (i j : Fin n) (x : α) :
    (v.set i x)[j] = if j = i then x else v[j] := by
  by_cases h : j = i
  · subst h; simp
  · have : (i : Nat) ≠ j := fun e => h (Fin.ext e.symm)
    simp [h, this]

/-- The spare found is FREE and no lower row is. -/
theorem freeSpare_some {m : Vector RowCond 48} {r : PRow} (h : freeSpare m = some r) :
    m[r] = .free ∧ ∀ q : PRow, q < r → m[q] ≠ .free := by
  unfold freeSpare at h
  rw [List.find?_eq_some_iff_getElem] at h
  obtain ⟨h1, i, hi, h2, h3⟩ := h
  refine ⟨by simpa using h1, fun q hq => ?_⟩
  have e : r.val = i := by rw [← h2]; simp
  have hq' : q.val < i := e ▸ hq
  simpa using h3 q.val hq'

theorem freeSpare_none {m : Vector RowCond 48} (h : freeSpare m = none) (q : PRow) : m[q] ≠ .free := by
  unfold freeSpare at h
  rw [List.find?_eq_none] at h
  simpa using h q (List.mem_finRange q)

/-! ### Store writes -/

/-- The store after a queued write, in every mode (R170). -/
theorem storeWrite_store (l : LRow) (c : Content) (s : State) : (storeWrite l c s).store = { s.store with
    shadows := s.store.shadows.set l { s.store.shadows[l] with content := c }
    queue := if s.store.shadows[l].isVolatile = true ∨ l ∈ s.store.queue then s.store.queue
             else s.store.queue ++ [l] } := by
  have e : (wake s).store = s.store := by unfold wake; split <;> rfl
  unfold storeWrite State.setRow
  by_cases v : s.store.shadows[l].isVolatile = true
  · rw [if_pos v, if_pos (.inl v)]; rfl
  · rw [if_neg v]
    dsimp only
    split
    · rename_i q
      have q' : l ∈ s.store.queue := by rw [← e]; exact List.contains_iff_mem.1 q
      rw [if_pos (Or.inr q'), State.withStore_store, e]
    · rename_i q
      have q' : l ∉ s.store.queue := fun h => q (List.contains_iff_mem.2 (by rw [← e] at h; exact h))
      rw [if_neg (not_or.2 ⟨v, q'⟩), State.withStore_store, State.withStore_store, e]

theorem storeWrite_isVolatile (l m : LRow) (c : Content) (s : State) :
    (storeWrite l c s).store.shadows[m].isVolatile = s.store.shadows[m].isVolatile := by
  rw [storeWrite_store]
  dsimp only
  rw [get_set_fin]
  split
  · rename_i h; rw [h]
  · rfl

/-- A row that waits in the store queue keeps waiting. -/
theorem storeWrite_keeps (l : LRow) {m : LRow} (c : Content) {s : State} (h : m ∈ s.store.queue) :
    m ∈ (storeWrite l c s).store.queue := by
  rw [storeWrite_store]
  dsimp only
  split
  · exact h
  · exact List.mem_append_left _ h

/-! ### Record keeping: events, groups, feedback and store -/

/-- `t` is `s` with at most its events, groups, presses, feedback and store moved, and the part returned from PARK. -/
structure Records (s t : State) : Prop where
  now : t.now = s.now
  pins : t.pins = s.pins
  band : t.supply.band = s.supply.band
  budget : t.supply.budget = s.supply.budget
  ctx : t.ctx = s.ctx
  arb : t.arb = s.arb
  stages : t.stages = s.stages
  latches : t.latches = s.latches
  release : t.release = s.release
  child : t.child = s.child
  windows : t.windows = s.windows
  profiles : t.profiles = s.profiles
  chans : t.chans = s.chans
  comfort : t.comfort = s.comfort
  pinch : t.pinch = s.pinch
  fobs : t.fobs = s.fobs
  search : t.search = s.search
  tracker : t.tracker = s.tracker
  crash : t.crash = s.crash
  awake : s.sys.mode ≠ .park → t.sys = s.sys ∧ t.supply = s.supply

namespace Records

theorem refl (s : State) : Records s s := by constructor <;> first | rfl | exact fun _ => ⟨rfl, rfl⟩

theorem trans {s t u : State} (a : Records s t) (b : Records t u) : Records s u where
  now := b.now.trans a.now
  pins := b.pins.trans a.pins
  band := b.band.trans a.band
  budget := b.budget.trans a.budget
  ctx := b.ctx.trans a.ctx
  arb := b.arb.trans a.arb
  stages := b.stages.trans a.stages
  latches := b.latches.trans a.latches
  release := b.release.trans a.release
  child := b.child.trans a.child
  windows := b.windows.trans a.windows
  profiles := b.profiles.trans a.profiles
  chans := b.chans.trans a.chans
  comfort := b.comfort.trans a.comfort
  pinch := b.pinch.trans a.pinch
  fobs := b.fobs.trans a.fobs
  search := b.search.trans a.search
  tracker := b.tracker.trans a.tracker
  crash := b.crash.trans a.crash
  awake := fun h =>
    have k := a.awake h
    have m := b.awake (by rw [k.1]; exact h)
    ⟨m.1.trans k.1, m.2.trans k.2⟩

theorem withGroups (s : State) (x : GroupTable) : Records s (s.withGroups x) := by
  constructor <;> first | rfl | exact fun _ => ⟨rfl, rfl⟩

theorem withPresses (s : State) (x : Presses) : Records s (s.withPresses x) := by
  constructor <;> first | rfl | exact fun _ => ⟨rfl, rfl⟩

theorem withFeedback (s : State) (x : Feedback) : Records s (s.withFeedback x) := by
  constructor <;> first | rfl | exact fun _ => ⟨rfl, rfl⟩

theorem withStore (s : State) (x : Store) : Records s (s.withStore x) := by
  constructor <;> first | rfl | exact fun _ => ⟨rfl, rfl⟩

theorem captureAll (e : Ev) (s : State) : Records s (captureAll e s) := by
  constructor <;> first | rfl | exact fun _ => ⟨rfl, rfl⟩

theorem wake (s : State) : Records s (wake s) := by
  by_cases m : s.sys.mode = .park
  · rw [wake_parked m]; constructor <;> first | rfl | exact fun h => absurd m h
  · rw [wake_of_ne_park m]; exact refl s

theorem offer (e : Ev) (s : State) : Records s (offer e s) := (wake s).trans (captureAll e _)

theorem storeWrite (l : LRow) (c : Content) (s : State) : Records s (storeWrite l c s) := by
  unfold Machine.storeWrite State.setRow
  split
  · exact withStore _ _
  · dsimp only
    split
    · exact (wake s).trans (withStore _ _)
    · exact (wake s).trans ((withStore _ _).trans (withStore _ _))

theorem patternRequest (i : Fin 8) (s : State) : Records s (patternRequest i s) := by
  unfold Machine.patternRequest
  split
  · dsimp only
    split
    · exact withFeedback _ _
    · exact (withFeedback _ _).trans (withFeedback _ _)
  · exact withFeedback _ _

theorem startRelock (g : Group) (s : State) : Records s (startRelock g s) := by
  unfold Machine.startRelock
  split
  · exact withPresses _ _
  · exact refl s

/-- The completion of a group (R38, R50). -/
theorem completeGroup (g : Group) (s : State) : Records s (completeGroup g s) := by
  unfold Machine.completeGroup
  dsimp only
  refine (Records.trans ?_ (withGroups _ _)).trans (startRelock _ _)
  have h : Records s (match g.pattern with
      | some i => Machine.patternRequest (if g.failed.isEmpty then i else 4) (Machine.offer g.event s)
      | none => Machine.offer g.event s) := by
    split
    · exact (offer _ _).trans (patternRequest _ _)
    · exact offer _ _
  split
  · exact h.trans (withGroups _ _)
  · exact h

theorem testCompletion (id : Nat) (s : State) : Records s (testCompletion id s) := by
  unfold Machine.testCompletion
  split
  · split
    · exact completeGroup _ _
    · exact refl s
  · exact refl s

/-- The settlement of the groups that wait on a drive (R37). -/
theorem settleList (a : Actuator) (o : Settled) (ids : List Nat) (s : State) : Records s (settleList a o ids s) := by
  induction ids generalizing s with
  | nil => exact refl s
  | cons x xs ih => exact ((withGroups _ _).trans (testCompletion x _)).trans (ih _)

theorem writeProfileRow (w : Win) (r : Nat) (s : State) : Records s (writeProfileRow w r s) := storeWrite _ _ s

/-- The rows of a profile written, whichever of them. -/
theorem profileRows (w : Win) (skip : Nat → Prop) [DecidablePred skip] (rs : List Nat) (s : State) :
    Records s (rs.foldl (fun s r => if skip r then s else Machine.writeProfileRow w r s) s) := by
  induction rs generalizing s with
  | nil => exact refl s
  | cons r rs ih =>
    rw [List.foldl_cons]
    split
    · exact ih s
    · exact (writeProfileRow w r s).trans (ih _)

/-- A new profile moves the profile, and what a store write moves. -/
theorem updateProfile (w : Win) (v : Vector Nat 32) (s : State) :
    Records (s.setProfile w v) (updateProfile w v s) := profileRows w _ _ _

end Records

/-- Learning leaves the windows, the stages, the pinch computer and the arbiter. -/
theorem learnAtTop_keeps (w : Win) (s : State) : (learnAtTop w s).now = s.now ∧ (learnAtTop w s).windows = s.windows
    ∧ (learnAtTop w s).stages = s.stages ∧ (learnAtTop w s).pinch = s.pinch ∧ (learnAtTop w s).arb = s.arb := by
  unfold learnAtTop
  split
  · split
    · have r := Records.updateProfile w (RunRec.learned ‹_› (s.profiles.get w)) s
      exact ⟨r.now, r.windows, r.stages, r.pinch, r.arb⟩
    · exact ⟨rfl, rfl, rfl, rfl, rfl⟩
  · exact ⟨rfl, rfl, rfl, rfl, rfl⟩

/-! ### The record of one window -/

@[simp] theorem modWindow_get (w : Win) (f : WindowRec → WindowRec) (s : State) :
    (s.modWindow w f).windows.get w = f (s.windows.get w) := by
  cases w <;> rfl

theorem modWindow_get_ne {w v : Win} (f : WindowRec → WindowRec) (s : State) (h : v ≠ w) :
    (s.modWindow w f).windows.get v = s.windows.get v := Wins.get_set_ne _ _ h

theorem modWindow_modWindow (w : Win) (f g : WindowRec → WindowRec) (s : State) :
    (s.modWindow w f).modWindow w g = s.modWindow w fun r => g (f r) := by
  cases w <;> rfl

/-! ### Soft start -/

theorem softStart_range (t : Nat) : 40 ≤ softStart t ∧ softStart t ≤ 100 := by
  induction t with
  | zero => exact ⟨Nat.le_refl _, by decide⟩
  | succ t ih => unfold softStart; omega

theorem softStart_succ (t : Nat) : softStart t ≤ softStart (t + 1) := by
  have := softStart_range t
  rw [softStart]
  omega

/-- The duty never falls during the soft start. -/
theorem softStart_mono {t u : Nat} (h : t ≤ u) : softStart t ≤ softStart u := by
  induction h with
  | refl => exact Nat.le_refl _
  | step _ ih => exact Nat.le_trans ih (softStart_succ _)

/-! ### Brakes and revocation -/

/-- A bridge that does not brake yet brakes for 40 ms. -/
theorem brakeWindow_of_ne (w : Win) (s : State) (h : s.stages.get (.window w) ≠ .brake) : brakeWindow w s =
    (s.modWindow w fun r => { r with brakeDue := some (s.now + msec 40) }).setStage (.window w) .brake := by
  unfold brakeWindow
  split
  · rename_i e; exact absurd e h
  · rfl

theorem brakeWindow_supply (w : Win) (s : State) : (brakeWindow w s).supply = s.supply := by
  unfold brakeWindow; split <;> rfl

theorem brakeWindow_events (w : Win) (s : State) : (brakeWindow w s).events = s.events := by
  unfold brakeWindow; split <;> rfl

/-- A revocation leaves the band and B. -/
theorem revokeWindow_supply (w : Win) (s : State) :
    (revokeWindow w s).supply.band = s.supply.band ∧ (revokeWindow w s).supply.budget = s.supply.budget := by
  unfold revokeWindow
  have h := Records.offer .driveRevoked
    (windowRevoked w s.revocationCause (addHold (.window w) (removeDrive (.window w) s)))
  have k : (windowRevoked w s.revocationCause (addHold (.window w) (removeDrive (.window w) s))).supply = s.supply := by
    unfold windowRevoked
    show (brakeWindow w _).supply = _
    rw [brakeWindow_supply]
    unfold addHold
    split <;> rfl
  rw [h.band, h.budget, k]
  exact ⟨rfl, rfl⟩

theorem revokeUntil_supply (f : State → Bool) (ws : List Win) (s : State) :
    (revokeUntil f ws s).supply.band = s.supply.band ∧ (revokeUntil f ws s).supply.budget = s.supply.budget := by
  induction ws generalizing s with
  | nil => exact ⟨rfl, rfl⟩
  | cons w ws ih =>
    unfold revokeUntil
    split
    · exact ⟨rfl, rfl⟩
    · rw [(ih _).1, (ih _).2]; exact revokeWindow_supply w s

/-! ### The channels of a window -/

theorem Chan.mem_list (c : Chan) : c ∈ Chan.list := by
  cases c with
  | panel w => cases w <;> decide
  | _ => decide

/-- The hold of a window's channels, from a list of them on. -/
theorem holdChannels_foldl (w : Win) : ∀ (l : List Chan), l.Nodup → ∀ s : State, ∃ cs,
    l.foldl (fun s c => if chanWin c = w ∧ (s.chans.get c).position ≠ .neutral then
        s.modChan c fun r => { r with waiting := true } else s) s = s.withChans cs
      ∧ ∀ x : Chan, cs.get x = if x ∈ l ∧ chanWin x = w ∧ (s.chans.get x).position ≠ .neutral then
          { s.chans.get x with waiting := true } else s.chans.get x
  | [], _, s => ⟨s.chans, rfl, fun x => by simp⟩
  | c :: l, hn, s => by
    rw [List.nodup_cons] at hn
    rw [List.foldl_cons]
    by_cases h : chanWin c = w ∧ (s.chans.get c).position ≠ .neutral
    · rw [if_pos h]
      obtain ⟨cs, e, k⟩ := holdChannels_foldl w l hn.2 (s.modChan c fun r => { r with waiting := true })
      refine ⟨cs, e, fun x => ?_⟩
      rw [k x]
      by_cases hx : x = c
      · subst hx; simp [hn.1, h, State.modChan]
      · simp [State.modChan, Chans.get_set_ne _ _ hx, hx]
    · rw [if_neg h]
      obtain ⟨cs, e, k⟩ := holdChannels_foldl w l hn.2 s
      refine ⟨cs, e, fun x => ?_⟩
      rw [k x]
      by_cases hx : x = c
      · subst hx
        rw [if_neg (fun a => hn.1 a.1), if_neg (fun a => h a.2)]
      · simp [hx]

/-- The channels of a window that read other than NEUTRAL wait, and nothing else changes (R109). -/
theorem holdChannels_eq (w : Win) (s : State) : ∃ cs, holdChannels w s = s.withChans cs
    ∧ ∀ x : Chan, cs.get x = if chanWin x = w ∧ (s.chans.get x).position ≠ .neutral then
        { s.chans.get x with waiting := true } else s.chans.get x := by
  obtain ⟨cs, e, k⟩ := holdChannels_foldl w Chan.list (by decide) s
  exact ⟨cs, e, fun x => by rw [k x]; simp [Chan.mem_list]⟩

end Sys2Proof.Machine
end

