-- ==== Sys2Proof/Laws/Moves.lean ====
section
/-! SUPPORT. Everything a step can do, said once: a command's effect is a chain of changes, each of one block of the state
with what it keeps. An invariant of a block is proved by one induction over `Chain`; the window budget (R20), which spans the
running list and B, is carried beside the chain. -/

namespace Sys2Proof.Machine

/-- The local facts that every change of the fob table keeps (R114, R120). -/
def FobsKept (t u : Slots Fob) : Prop := (FobsDistinct t → FobsDistinct u) ∧ (CeilingAhead t → CeilingAhead u)

/-- A chain of changes of the state. -/
inductive Chain : State → State → Prop
  | refl (s) : Chain s s
  | now {s t} (h : Chain s t) (x) : Chain s (t.withNow x)
  | pins {s t} (h : Chain s t) (x) : Chain s (t.withPins x)
  | sys {s t} (h : Chain s t) (x) : Chain s (t.withSys x)
  | ctx {s t} (h : Chain s t) (x) : Chain s (t.withCtx x)
  | arb {s t} (h : Chain s t) (x) : Chain s (t.withArb x)
  | stages {s t} (h : Chain s t) (x) : Chain s (t.withStages x)
  | release {s t} (h : Chain s t) (x) : Chain s (t.withRelease x)
  | groups {s t} (h : Chain s t) (x) : Chain s (t.withGroups x)
  | presses {s t} (h : Chain s t) (x) : Chain s (t.withPresses x)
  | child {s t} (h : Chain s t) (x) : Chain s (t.withChild x)
  | windows {s t} (h : Chain s t) (x) : Chain s (t.withWindows x)
  | profiles {s t} (h : Chain s t) (x) : Chain s (t.withProfiles x)
  | chans {s t} (h : Chain s t) (x) : Chain s (t.withChans x)
  | comfort {s t} (h : Chain s t) (x) : Chain s (t.withComfort x)
  | pinch {s t} (h : Chain s t) (x) : Chain s (t.withPinch x)
  | search {s t} (h : Chain s t) (x) : Chain s (t.withSearch x)
  | tracker {s t} (h : Chain s t) (x) : Chain s (t.withTracker x)
  | crash {s t} (h : Chain s t) (x) : Chain s (t.withCrash x)
  | ports {s t} (h : Chain s t) (x) : Chain s (t.withPorts x)
  | ties {s t} (h : Chain s t) (x) : Chain s (t.withTies x)
  /-- Heat stays within its range. -/
  | latches {s t} (h : Chain s t) (x) (k : HeatInRange t → HeatInRange (t.withLatches x)) : Chain s (t.withLatches x)
  /-- The supply record stays within its ranges. -/
  | supply {s t} (h : Chain s t) (x) (k : SupplyInRange t → SupplyInRange (t.withSupply x)) :
      Chain s (t.withSupply x)
  /-- The event words keep their unused bits. -/
  | events {s t} (h : Chain s t) (x) (k : EventsUsed t → EventsUsed (t.withEvents x)) : Chain s (t.withEvents x)
  /-- The playback queue stays within four entries. -/
  | feedback {s t} (h : Chain s t) (x) (k : FeedbackBounded t → FeedbackBounded (t.withFeedback x)) :
      Chain s (t.withFeedback x)
  /-- The store queue stays free of duplicates. -/
  | store {s t} (h : Chain s t) (x) (k : StoreQueueOnce t → StoreQueueOnce (t.withStore x)) : Chain s (t.withStore x)
  /-- The fob table keeps its facts. -/
  | fobs {s t} (h : Chain s t) (x) (k : FobsKept t.fobs x) : Chain s (t.withFobs x)
  /-- A reset (R199). -/
  | reset {s t} (h : Chain s t) (c n p a) : Chain s (State.afterReset c n t.pending p a)

/-- The supply records agree but for the next sample's instant. -/
structure SupplySame (x y : Supply) : Prop where
  samples : x.samples = y.samples
  vf : x.vf = y.vf
  band : x.band = y.band
  budget : x.budget = y.budget

theorem SupplySame.rfl {x : Supply} : SupplySame x x := ⟨.refl _, .refl _, .refl _, .refl _⟩

theorem SupplySame.trans {x y z : Supply} (h : SupplySame x y) (k : SupplySame y z) : SupplySame x z :=
  ⟨h.samples.trans k.samples, h.vf.trans k.vf, h.band.trans k.band, h.budget.trans k.budget⟩

/-- A chain between two states, without a new V_f, that keeps the window budget. -/
structure Moves (s t : State) : Prop where
  chain : Chain s t
  window : WindowBudget s → WindowBudget t
  same : SupplySame t.supply s.supply

theorem Chain.trans {s t u : State} (h : Chain s t) (k : Chain t u) : Chain s u := by
  induction k with
  | refl => exact h
  | now _ x ih => exact ih.now x
  | pins _ x ih => exact ih.pins x
  | sys _ x ih => exact ih.sys x
  | ctx _ x ih => exact ih.ctx x
  | arb _ x ih => exact ih.arb x
  | stages _ x ih => exact ih.stages x
  | release _ x ih => exact ih.release x
  | groups _ x ih => exact ih.groups x
  | presses _ x ih => exact ih.presses x
  | child _ x ih => exact ih.child x
  | windows _ x ih => exact ih.windows x
  | profiles _ x ih => exact ih.profiles x
  | chans _ x ih => exact ih.chans x
  | comfort _ x ih => exact ih.comfort x
  | pinch _ x ih => exact ih.pinch x
  | search _ x ih => exact ih.search x
  | tracker _ x ih => exact ih.tracker x
  | crash _ x ih => exact ih.crash x
  | ports _ x ih => exact ih.ports x
  | ties _ x ih => exact ih.ties x
  | latches _ x k ih => exact ih.latches x k
  | supply _ x k ih => exact ih.supply x k
  | events _ x k ih => exact ih.events x k
  | feedback _ x k ih => exact ih.feedback x k
  | store _ x k ih => exact ih.store x k
  | fobs _ x k ih => exact ih.fobs x k
  | reset _ c n p a ih => exact ih.reset c n p a

namespace Moves

variable {s t : State}

@[simp] theorem refl (s : State) : Moves s s := ⟨.refl s, id, .rfl⟩

theorem trans {u : State} (h : Moves s t) (k : Moves t u) : Moves s u :=
  ⟨h.chain.trans k.chain, fun x => k.window (h.window x), k.same.trans h.same⟩

@[simp] theorem now (h : Moves s t) (x) : Moves s (t.withNow x) := ⟨h.chain.now x, h.window, h.same⟩

@[simp] theorem pins (h : Moves s t) (x) : Moves s (t.withPins x) := ⟨h.chain.pins x, h.window, h.same⟩

@[simp] theorem sys (h : Moves s t) (x) : Moves s (t.withSys x) := ⟨h.chain.sys x, h.window, h.same⟩

@[simp] theorem ctx (h : Moves s t) (x) : Moves s (t.withCtx x) := ⟨h.chain.ctx x, h.window, h.same⟩

@[simp] theorem stages (h : Moves s t) (x) : Moves s (t.withStages x) := ⟨h.chain.stages x, h.window, h.same⟩

@[simp] theorem release (h : Moves s t) (x) : Moves s (t.withRelease x) := ⟨h.chain.release x, h.window, h.same⟩

@[simp] theorem groups (h : Moves s t) (x) : Moves s (t.withGroups x) := ⟨h.chain.groups x, h.window, h.same⟩

@[simp] theorem presses (h : Moves s t) (x) : Moves s (t.withPresses x) := ⟨h.chain.presses x, h.window, h.same⟩

@[simp] theorem child (h : Moves s t) (x) : Moves s (t.withChild x) := ⟨h.chain.child x, h.window, h.same⟩

@[simp] theorem windows (h : Moves s t) (x) : Moves s (t.withWindows x) := ⟨h.chain.windows x, h.window, h.same⟩

@[simp] theorem profiles (h : Moves s t) (x) : Moves s (t.withProfiles x) := ⟨h.chain.profiles x, h.window, h.same⟩

@[simp] theorem chans (h : Moves s t) (x) : Moves s (t.withChans x) := ⟨h.chain.chans x, h.window, h.same⟩

@[simp] theorem comfort (h : Moves s t) (x) : Moves s (t.withComfort x) := ⟨h.chain.comfort x, h.window, h.same⟩

@[simp] theorem pinch (h : Moves s t) (x) : Moves s (t.withPinch x) := ⟨h.chain.pinch x, h.window, h.same⟩

@[simp] theorem search (h : Moves s t) (x) : Moves s (t.withSearch x) := ⟨h.chain.search x, h.window, h.same⟩

@[simp] theorem tracker (h : Moves s t) (x) : Moves s (t.withTracker x) := ⟨h.chain.tracker x, h.window, h.same⟩

@[simp] theorem crash (h : Moves s t) (x) : Moves s (t.withCrash x) := ⟨h.chain.crash x, h.window, h.same⟩

@[simp] theorem ports (h : Moves s t) (x) : Moves s (t.withPorts x) := ⟨h.chain.ports x, h.window, h.same⟩

@[simp] theorem ties (h : Moves s t) (x) : Moves s (t.withTies x) := ⟨h.chain.ties x, h.window, h.same⟩

/-- The arbiter changes without more window units in use. -/
theorem arb (h : Moves s t) (x : Arb) (k : (t.withArb x).windowUnits ≤ t.windowUnits) : Moves s (t.withArb x) := by
  refine ⟨h.chain.arb x, fun hs => ?_, h.same⟩
  have ht := h.window hs
  have e : (t.withArb x).supply = t.supply := rfl
  unfold WindowBudget at *
  rw [e]
  omega

/-- Heat stays within its range. -/
theorem latches (h : Moves s t) (x) (k : HeatInRange t → HeatInRange (t.withLatches x)) : Moves s (t.withLatches x) :=
  ⟨h.chain.latches x k, h.window, h.same⟩

/-- The instant of the next sample changes, and nothing else of the supply record. -/
theorem supply (h : Moves s t) (x) (e : SupplySame x t.supply) : Moves s (t.withSupply x) := by
  refine ⟨h.chain.supply x fun k => ?_, fun hs => ?_, e.trans h.same⟩
  · unfold SupplyInRange at *
    rw [State.withSupply_supply, e.samples, e.budget]
    exact k
  · have ht := h.window hs
    unfold WindowBudget at *
    rw [State.withSupply_supply, e.budget]
    exact ht

/-- The event words keep their unused bits. -/
theorem events (h : Moves s t) (x) (k : EventsUsed t → EventsUsed (t.withEvents x)) : Moves s (t.withEvents x) :=
  ⟨h.chain.events x k, h.window, h.same⟩

/-- The playback queue stays within four entries. -/
theorem feedback (h : Moves s t) (x) (k : FeedbackBounded t → FeedbackBounded (t.withFeedback x)) :
    Moves s (t.withFeedback x) := ⟨h.chain.feedback x k, h.window, h.same⟩

/-- The store queue stays free of duplicates. -/
theorem store (h : Moves s t) (x) (k : StoreQueueOnce t → StoreQueueOnce (t.withStore x)) : Moves s (t.withStore x) :=
  ⟨h.chain.store x k, h.window, h.same⟩

/-- The fob table keeps its facts. -/
theorem fobs (h : Moves s t) (x) (k : FobsKept t.fobs x) : Moves s (t.withFobs x) := ⟨h.chain.fobs x k, h.window, h.same⟩

end Moves

end Sys2Proof.Machine
end

