-- ==== Sys2Proof/Laws/MovesOps.lean ====
section
/-! SUPPORT. The shared operations as moves: updates of one cell, events, store writes, feedback, groups. -/

namespace Sys2Proof.Machine

namespace Moves

variable {s t : State}

theorem foldl {α : Type} (f : State → α → State) (hf : ∀ u a, Moves u (f u a)) :
    ∀ (l : List α) {t : State}, Moves s t → Moves s (l.foldl f t)
  | [], _, h => h
  | a :: l, t, h => foldl f hf l (h.trans (hf t a))

@[simp] theorem setStage (h : Moves s t) (a : Actuator) (x : Stage) : Moves s (t.setStage a x) := h.stages _

@[simp] theorem modChild (h : Moves s t) (c : Side) (f) : Moves s (t.modChild c f) := h.child _

@[simp] theorem modWindow (h : Moves s t) (w : Win) (f) : Moves s (t.modWindow w f) := h.windows _

@[simp] theorem modChan (h : Moves s t) (c : Chan) (f) : Moves s (t.modChan c f) := h.chans _

@[simp] theorem modPinch (h : Moves s t) (w : Win) (f) : Moves s (t.modPinch w f) := h.pinch _

@[simp] theorem modPort (h : Moves s t) (p : Port) (f) : Moves s (t.modPort p f) := h.ports _

@[simp] theorem setComfort (h : Moves s t) (w : Win) (b) : Moves s (t.setComfort w b) := h.comfort _

@[simp] theorem setProfile (h : Moves s t) (w : Win) (v) : Moves s (t.setProfile w v) := h.profiles _

/-- A latch record changes with its heat kept in range. -/
@[simp] theorem modLatch (h : Moves s t) (l : Latch) (f : LatchRec → LatchRec) (k : ∀ r, r.heat ≤ 20 → (f r).heat ≤ 20) :
    Moves s (t.modLatch l f) := by
  refine h.latches _ fun hb m => ?_
  by_cases e : m = l
  · subst e; simpa using k _ (hb m)
  · simpa [Doors.get_set_ne _ _ e] using hb m

/-- The due time of the next sample changes. -/
@[simp] theorem sampleDue (h : Moves s t) (x : Time) : Moves s (t.withSupply { t.supply with sampleDue := x }) :=
  h.supply _ ⟨rfl, rfl, rfl, rfl⟩

/-! ### Events -/

theorem capture_used {r : EventRec} (e : Ev) (h : r.Used) : (r.capture e).Used := by
  obtain ⟨h1, h2⟩ := h
  refine ⟨?_, h2⟩
  unfold wordUsed EventRec.capture at *
  generalize usedBits = m at *
  rw [BitVec.and_or_distrib_right, BitVec.and_assoc, h2, h1]

@[simp] theorem captureAll (h : Moves s t) (e : Ev) : Moves s (captureAll e t) := by
  refine h.events _ fun k p => ?_
  cases p
  · exact capture_used e (k .body)
  · exact capture_used e (k .radio)
  · exact capture_used e (k .restraint)

/-- The event record of one port changes with its unused bits kept. -/
theorem modEvents (h : Moves s t) (p : Port) (f : EventRec → EventRec) (k : ∀ r, r.Used → (f r).Used) :
    Moves s (t.modEvents p f) := by
  refine h.events _ fun hb q => ?_
  by_cases e : q = p
  · subst e; simpa using k _ (hb q)
  · simpa [Ports.get_set_ne _ _ e] using hb q

@[simp] theorem wake (h : Moves s t) : Moves s (wake t) := by
  unfold Machine.wake
  split <;> simp_all
  refine captureAll (supply (h.sys _) _ ?_) _
  exact ⟨rfl, rfl, rfl, rfl⟩

@[simp] theorem offer (h : Moves s t) (e : Ev) : Moves s (offer e t) := h.wake.captureAll e

@[simp] theorem offerFrameError (h : Moves s t) (p : Port) : Moves s (offerFrameError p t) :=
  h.wake.modEvents p _ fun _ k => capture_used _ k

/-! ### Store writes -/

@[simp] theorem setRow (h : Moves s t) (l : LRow) (c : Content) : Moves s (t.setRow l c) := h.store _ id

@[simp] theorem storeWrite (h : Moves s t) (l : LRow) (c : Content) : Moves s (storeWrite l c t) := by
  unfold Machine.storeWrite
  split
  · exact h.setRow l c
  · dsimp only
    split
    · exact h.wake.setRow l c
    · rename_i hn
      refine (h.wake.setRow l c).store _ fun k => ?_
      simp only [StoreQueueOnce, State.withStore_store] at k ⊢
      refine k.append (by simp) ?_
      intro x hx hy
      simp only [List.mem_singleton] at hy
      subst hy
      exact hn (by simpa using hx)

@[simp] theorem writeStateByte (h : Moves s t) (i) (b) : Moves s (writeStateByte i b t) := h.storeWrite _ _

@[simp] theorem setLatchState (h : Moves s t) (l : Latch) (v) : Moves s (setLatchState l v t) := by
  unfold Machine.setLatchState
  have k := h.modLatch l (fun r => { r with state := v }) fun _ h => h
  dsimp only
  split
  · exact k
  · split
    · exact k
    · exact k.writeStateByte _ _

@[simp] theorem reconcileLatch (h : Moves s t) (l : Latch) : Moves s (reconcileLatch l t) := by
  unfold Machine.reconcileLatch
  dsimp only
  split <;> simp [h]

@[simp] theorem refreshPark (h : Moves s t) : Moves s (refreshPark t) := by
  unfold Machine.refreshPark
  split
  · split <;> simp [h]
  · simp [h]

@[simp] theorem advance (h : Moves s t) (dt : Time) : Moves s (advance dt t) := h.now _

@[simp] theorem reach (h : Moves s t) (d : Time) : Moves s (reach d t) := h.now _

/-! ### Feedback -/

theorem beginHead_length (img : Image) (d : Time) (q : List (Fin 8)) : (beginHead img d q).queue.length ≤ q.length := by
  induction q with
  | nil => simp [beginHead]
  | cons i rest ih =>
    unfold beginHead
    split
    · simp
    · simp; omega

@[simp] theorem startPlayback (h : Moves s t) : Moves s (startPlayback t) :=
  h.feedback _ fun k => (beginHead_length _ _ _).trans k

@[simp] theorem patternRequest (h : Moves s t) (i : Fin 8) : Moves s (patternRequest i t) := by
  unfold Machine.patternRequest
  split
  · have k := h.feedback { t.feedback with queue := [i] } (by simp [FeedbackBounded])
    dsimp only
    split
    · exact k
    · exact k.startPlayback
  · refine h.feedback _ fun k => ?_
    rename_i q hq
    simp only [FeedbackBounded, State.withFeedback_feedback] at k ⊢
    split <;> simp <;> omega

@[simp] theorem endPhase (h : Moves s t) (pb : Playback) : Moves s (endPhase pb t) := by
  unfold Machine.endPhase
  split
  · exact h.feedback _ fun k => k
  · refine (h.feedback _ fun k => ?_).startPlayback
    simp only [FeedbackBounded, State.withFeedback_feedback, List.length_tail] at k ⊢
    omega

@[simp] theorem silence (h : Moves s t) : Moves s (silence t) := h.feedback _ (by simp [FeedbackBounded])

/-! ### Branches -/

@[simp] theorem ite {c : Prop} [Decidable c] {a b : State} (ha : Moves s a) (hb : Moves s b) : Moves s (if c then a else b) := by
  split
  · exact ha
  · exact hb

@[simp] theorem ite_fst {α : Type} {c : Prop} [Decidable c] {a b : State × α} (ha : Moves s a.1) (hb : Moves s b.1) :
    Moves s (if c then a else b).1 := by
  split
  · exact ha
  · exact hb

/-! ### Groups -/

@[simp] theorem modGroup (h : Moves s t) (id) (f) : Moves s (modGroup id f t) := h.groups _

@[simp] theorem removeGroup (h : Moves s t) (id) : Moves s (removeGroup id t) := h.groups _

@[simp] theorem openGroup (h : Moves s t) (g) : Moves s (openGroup g t) := h.groups _

@[simp] theorem startRelock (h : Moves s t) (g) : Moves s (startRelock g t) := by
  unfold Machine.startRelock
  split <;> simp [h]

@[simp] theorem completeGroup (h : Moves s t) (g) : Moves s (completeGroup g t) := by
  unfold Machine.completeGroup
  refine ((?_ : Moves s _).removeGroup _).startRelock _
  dsimp only
  split
  · refine groups ?_ _
    split <;> simp [h]
  · split <;> simp [h]

@[simp] theorem testCompletion (h : Moves s t) (id) : Moves s (testCompletion id t) := by
  unfold Machine.testCompletion
  split
  · split <;> simp [h]
  · exact h

@[simp] theorem settleGroup (h : Moves s t) (a o id) : Moves s (settleGroup a o id t) := by
  unfold Machine.settleGroup
  simp [h]

@[simp] theorem settleList (h : Moves s t) (a o ids) : Moves s (settleList a o ids t) := by
  unfold Machine.settleList
  exact foldl _ (fun u x => by simp) _ h

end Moves

end Sys2Proof.Machine
end

