-- ==== Sys2Proof/Laws/MovesDrive.lean ====
section
/-! SUPPORT. The arbiter, the pinch computer and the group operations as moves. -/

namespace Sys2Proof.Machine
namespace Moves
variable {s t : State}

/-! ### Pinch computer -/

@[simp] theorem beginRun (h : Moves s t) (w) : Moves s (beginRun w t) := h.modPinch w _

@[simp] theorem endRun (h : Moves s t) (w) : Moves s (endRun w t) := h.modPinch w _

@[simp] theorem markSupply (h : Moves s t) : Moves s (markSupply t) := by
  unfold Machine.markSupply
  simp (maxDischargeDepth := 40) [h]

@[simp] theorem handEdge (h : Moves s t) (w e m) : Moves s (handEdge w e m t) := h.modPinch w _

@[simp] theorem startReversal (h : Moves s t) (w) : Moves s (startReversal w t) := by
  unfold Machine.startReversal
  simp (maxDischargeDepth := 40) [h]

@[simp] theorem passPulse (h : Moves s t) (w e) : Moves s (passPulse w e t) := h.modPinch w _

@[simp] theorem writeProfileRow (h : Moves s t) (w r) : Moves s (writeProfileRow w r t) := h.storeWrite _ _

@[simp] theorem profileRows (h : Moves s t) (w) (l : List Nat) :
    Moves s (l.foldl (fun s r => Machine.writeProfileRow w r s) t) :=
  foldl _ (fun u a => by simp) _ h

@[simp] theorem updateProfile (h : Moves s t) (w v) : Moves s (updateProfile w v t) := by
  unfold Machine.updateProfile
  exact foldl _ (fun u a => by simp) _ (h.setProfile _ _)

@[simp] theorem learnAtTop (h : Moves s t) (w) : Moves s (learnAtTop w t) := by
  unfold Machine.learnAtTop
  split <;> simp (maxDischargeDepth := 40) [h]

/-! ### Grants, aborts and revocations -/

theorem heatUp_heat (r : LatchRec) (n : Time) : (r.heatUp n).heat ≤ 20 := by
  simp [LatchRec.heatUp]

@[simp] theorem energizeLock (h : Moves s t) (l d) : Moves s (energizeLock l d t) := by
  unfold Machine.energizeLock
  refine setStage (h.modLatch l _ fun r _ => ?_) _ _
  exact heatUp_heat r t.now

@[simp] theorem grantLock (h : Moves s t) (l d) : Moves s (grantLock l d t) := by
  unfold Machine.grantLock
  refine energizeLock (h.modLatch l _ fun _ k => ?_) l d
  exact k

@[simp] theorem abortLock (h : Moves s t) (l) : Moves s (abortLock l t) := by
  unfold Machine.abortLock
  refine reconcileLatch (setStage (h.modLatch l _ fun _ k => ?_) _ _) l
  exact k

@[simp] theorem energizeChild (h : Moves s t) (c d) : Moves s (energizeChild c d t) := (h.modChild c _).setStage _ _

@[simp] theorem grantChild (h : Moves s t) (c d) : Moves s (grantChild c d t) := (h.modChild c _).energizeChild c d

@[simp] theorem grantRelease (h : Moves s t) : Moves s (grantRelease t) := (h.release _).setStage _ _

@[simp] theorem startRun (h : Moves s t) (w d) : Moves s (startRun w d t) := by
  unfold Machine.startRun
  cases d <;> simp (maxDischargeDepth := 40) [h]

@[simp] theorem grantWindow (h : Moves s t) (w d m so c) : Moves s (grantWindow w d m so c t) :=
  (h.modWindow w _).startRun w d

@[simp] theorem brakeWindow (h : Moves s t) (w) : Moves s (brakeWindow w t) := by
  unfold Machine.brakeWindow
  split <;> simp (maxDischargeDepth := 40) [h]

@[simp] theorem windowRevoked (h : Moves s t) (w c) : Moves s (windowRevoked w c t) := by
  unfold Machine.windowRevoked
  simp (maxDischargeDepth := 40) [h]

/-! ### The drive arbiter -/

/-- The units of the windows in a running list (R5). -/
def windowCost (l : List Drive) : Nat := ((l.filter fun d => actIsWindow d.act).map fun d => actCost d.act).sum

theorem windowCost_filter (p : Drive → Bool) (l : List Drive) : windowCost (l.filter p) ≤ windowCost l := by
  unfold windowCost
  exact (((List.filter_sublist.filter _).map _).sum_le_sum) (fun _ _ => Nat.zero_le _)

theorem windowCost_map (f : Drive → Drive) (hf : ∀ d, (f d).act = d.act) (l : List Drive) :
    windowCost (l.map f) = windowCost l := by
  unfold windowCost
  induction l with
  | nil => rfl
  | cons d l ih =>
    simp only [List.map_cons, List.filter_cons, hf]
    split <;> simp_all

theorem windowCost_append (l : List Drive) (d : Drive) :
    windowCost (l ++ [d]) = windowCost l + if actIsWindow d.act then 4 else 0 := by
  unfold windowCost
  cases hd : d.act <;> simp [List.filter_append, hd, actIsWindow, actCost]

/-- A change of the arbiter that leaves the running list. -/
theorem arbQueue (h : Moves s t) (x : Arb) (k : x.running = t.arb.running) : Moves s (t.withArb x) := by
  refine h.arb x (Nat.le_of_eq ?_)
  unfold State.windowUnits
  rw [State.withArb_arb, k]

/-- A change of running drives that keeps their actuators. -/
theorem arbMap (h : Moves s t) (f : Drive → Drive) (hf : ∀ d, (f d).act = d.act) :
    Moves s (t.withArb { t.arb with running := t.arb.running.map f }) :=
  h.arb _ (Nat.le_of_eq (windowCost_map f hf _))

@[simp] theorem setQueue (h : Moves s t) (q) : Moves s (setQueue q t) := h.arbQueue _ rfl

@[simp] theorem removeEntry (h : Moves s t) (a) : Moves s (removeEntry a t) := h.setQueue _

@[simp] theorem removeDrive (h : Moves s t) (a) : Moves s (removeDrive a t) := h.arb _ (windowCost_filter _ _)

@[simp] theorem addHold (h : Moves s t) (a) : Moves s (addHold a t) := by
  unfold Machine.addHold
  exact ite h (h.arbQueue _ rfl)

@[simp] theorem removeHold (h : Moves s t) (a) : Moves s (removeHold a t) := h.arbQueue _ rfl

@[simp] theorem revokeWindow (h : Moves s t) (w) : Moves s (revokeWindow w t) := by
  unfold Machine.revokeWindow
  simp (maxDischargeDepth := 40) [h]

@[simp] theorem revokeUntil (h : Moves s t) (e l) : Moves s (revokeUntil e l t) := by
  induction l generalizing t with
  | nil => exact h
  | cons w l ih =>
    unfold Machine.revokeUntil
    split
    · exact h
    · exact ih (h.revokeWindow w)

@[simp] theorem revokeForSupply (h : Moves s t) : Moves s (revokeForSupply t) := h.revokeUntil _ _

@[simp] theorem startDrive (h : Moves s t) (e) : Moves s (startDrive e t) := by
  unfold Machine.startDrive
  split <;> simp (maxDischargeDepth := 40) [h]

/-- A grant keeps the window budget when the entry fits or is not a window's. -/
theorem grantEntry (h : Moves s t) (e) (k : t.fits e = true ∨ actIsWindow e.act = false) : Moves s (grantEntry e t) := by
  unfold Machine.grantEntry
  extract_lets u d
  have e1 : (u.withArb { u.arb with running := u.arb.running ++ [d] }).windowUnits =
      t.windowUnits + if actIsWindow e.act then 4 else 0 := windowCost_append _ _
  refine startDrive ?_ e
  refine ⟨(h.removeEntry e.act).chain.arb _, fun hs => ?_, h.same⟩
  have ht := h.window hs
  have e2 : (u.withArb { u.arb with running := u.arb.running ++ [d] }).supply = t.supply := rfl
  unfold WindowBudget at *
  rw [e1, e2]
  cases hw : actIsWindow e.act with
  | false => simpa using ht
  | true =>
    rw [hw] at k
    simp only [State.fits, hw, if_true, Bool.and_eq_true, decide_eq_true_eq, reduceCtorEq, or_false] at k
    simp only [if_true]
    omega

@[simp] theorem reportHold (h : Moves s t) (e) : Moves s (reportHold e t) := by
  unfold Machine.reportHold
  refine ite h (offer (h.arbQueue _ ?_) _)
  rfl

theorem starving_cost {e : Entry} (h : t.starving e = true) : actIsWindow e.act = false := by
  unfold State.starving at h
  cases hw : actIsWindow e.act <;> simp_all

@[simp] theorem walk (h : Moves s t) (l) : Moves s (walk l t) := by
  induction l generalizing t with
  | nil => exact h
  | cons e l ih =>
    unfold Machine.walk
    refine ite (ih h) (ite (ih (h.reportHold e)) (ite (ih h) ?_))
    have k : Moves s (if t.fits e then t
        else if e.cls = .crash then Machine.revokeUntil (·.fits e) t.youngestWindows t else t) := by
      simp (maxDischargeDepth := 40) [h]
    have key : ∀ u, Moves s u →
        Moves s (if u.fits e || u.starving e then Machine.walk l (Machine.grantEntry e u) else u) := by
      intro u hu
      split
      · rename_i hf
        refine ih (hu.grantEntry e ?_)
        rcases (Bool.or_eq_true _ _).mp hf with hf | hf
        · exact .inl hf
        · exact .inr (starving_cost hf)
      · exact hu
    exact key _ k

@[simp] theorem scan (h : Moves s t) : Moves s (scan t) := by
  unfold Machine.scan
  simp (maxDischargeDepth := 40) [h]

@[simp] theorem joinQueue (h : Moves s t) (r) : Moves s (joinQueue r t) := h.arbQueue _ rfl

@[simp] theorem replaceEntry (h : Moves s t) (r e) : Moves s (replaceEntry r e t) := by
  refine settleList (h.arbQueue _ ?_) _ _ _
  rfl

@[simp] theorem enqueue (h : Moves s t) (r) : Moves s (enqueue r t).1 := by
  unfold Machine.enqueue
  split <;> simp (maxDischargeDepth := 40) [h]

@[simp] theorem mergeDrive (h : Moves s t) (r) : Moves s (mergeDrive r t) := by
  refine arbMap h _ fun d => ?_
  split <;> rfl

@[simp] theorem preempt (h : Moves s t) (l d) : Moves s (preempt l d t) := by
  unfold Machine.preempt
  simp (maxDischargeDepth := 40) [h]

@[simp] theorem submit (h : Moves s t) (r) : Moves s (submit r t).1 := by
  unfold Machine.submit
  split
  · simp (maxDischargeDepth := 40) [h]
  · refine ite_fst (by simp (maxDischargeDepth := 40) [h]) ?_
    split <;> simp (maxDischargeDepth := 40) [h]

@[simp] theorem dismissEntry (h : Moves s t) (e) : Moves s (dismissEntry e t) := by
  unfold Machine.dismissEntry
  simp (maxDischargeDepth := 40) [h]

@[simp] theorem dismissLocking (h : Moves s t) (l) : Moves s (dismissLocking l t) := by
  unfold Machine.dismissLocking
  split
  · split <;> simp (maxDischargeDepth := 40) [h]
  · exact h

@[simp] theorem withdraw (h : Moves s t) (w) : Moves s (withdraw w t) := by
  unfold Machine.withdraw
  simp (maxDischargeDepth := 40) [h]

@[simp] theorem reportGroupless (h : Moves s t) (d o) : Moves s (reportGroupless d o t) := by
  unfold Machine.reportGroupless
  split <;> simp (maxDischargeDepth := 40) [h]

@[simp] theorem endReport (h : Moves s t) (a o) : Moves s (endReport a o t) := by
  unfold Machine.endReport
  split <;> simp (maxDischargeDepth := 40) [h]

@[simp] theorem endHold (h : Moves s t) (a) : Moves s (endHold a t) := (h.removeHold a).scan

@[simp] theorem tellDrive (h : Moves s t) (w d m so) : Moves s (tellDrive w d m so t) := by
  refine arbMap h _ fun d => ?_
  split <;> rfl

/-! ### Operations -/

theorem submitMember {x : State × Tally} (h : Moves s x.1) (op id a) : Moves s (submitMember op id a x).1 := by
  unfold Machine.submitMember
  dsimp only
  split
  · split <;> simp (maxDischargeDepth := 40) [h]
  · split
    · simp (maxDischargeDepth := 40) [h]
    · simp (maxDischargeDepth := 40) [h]
    · split <;> simp (maxDischargeDepth := 40) [h]

@[simp] theorem submitMembers (h : Moves s t) (op id) : Moves s (submitMembers op id t).1 := by
  unfold Machine.submitMembers
  generalize hx : (t, ({ queued := false, merged := false, taken := false } : Tally)) = x
  have k : Moves s x.1 := by subst hx; exact h
  clear hx
  induction op.members generalizing x with
  | nil => exact k
  | cons a l ih => exact ih _ (k.submitMember op id a)

@[simp] theorem runGroup (h : Moves s t) (op) : Moves s (runGroup op t).1 := by
  unfold Machine.runGroup
  simp (maxDischargeDepth := 40) [h]

@[simp] theorem runInternal (h : Moves s t) (op) : Moves s (runInternal op t).1 := by
  unfold Machine.runInternal
  simp (maxDischargeDepth := 40) [h]

@[simp] theorem lockOperation (h : Moves s t) (op d) : Moves s (lockOperation op d t).1 := by
  unfold Machine.lockOperation
  dsimp only
  split <;> simp (maxDischargeDepth := 40) [h]

end Moves
end Sys2Proof.Machine
end

