-- ==== Sys2Proof/Laws/MovesWindows.lean ====
section
/-! SUPPORT. The ports and the window controller as moves. -/

namespace Sys2Proof.Machine
namespace Moves
variable {s t : State}

/-! ### Ports -/


@[simp] theorem csFall (h : Moves s t) (p) : Moves s (csFall p t) := by
  unfold Machine.csFall
  simp (maxDischargeDepth := 40) [h]

@[simp] theorem csRise (h : Moves s t) (p) : Moves s (csRise p t) := by
  unfold Machine.csRise
  simp (maxDischargeDepth := 40) [h]

@[simp] theorem setSlot (h : Moves s t) (p e r) : Moves s (setSlot p e r t) := by
  unfold Machine.setSlot
  simp (maxDischargeDepth := 40) [h]

@[simp] theorem takeError (h : Moves s t) (p) : Moves s (takeError p t) := by
  unfold Machine.takeError
  simp (maxDischargeDepth := 40) [h]

@[simp] theorem restartStaleness (h : Moves s t) : Moves s (restartStaleness t) := by
  unfold Machine.restartStaleness
  simp (maxDischargeDepth := 40) [h]

/-! ### Windows -/


@[simp] theorem stopRun (h : Moves s t) (w c) : Moves s (stopRun w c t) := by
  unfold Machine.stopRun
  simp (maxDischargeDepth := 40) [h]

@[simp] theorem brakeToChange (h : Moves s t) (w d) : Moves s (brakeToChange w d t) := by
  unfold Machine.brakeToChange
  simp (maxDischargeDepth := 40) [h]

@[simp] theorem setMovement (h : Moves s t) (w m so c) : Moves s (setMovement w m so c t) := by
  unfold Machine.setMovement
  simp (maxDischargeDepth := 40) [h]

@[simp] theorem clearMovement (h : Moves s t) (w) : Moves s (clearMovement w t) := by
  unfold Machine.clearMovement
  simp (maxDischargeDepth := 40) [h]

@[simp] theorem changeNorm (h : Moves s t) (w v) : Moves s (changeNorm w v t) := by
  unfold Machine.changeNorm
  simp (maxDischargeDepth := 40) [h]

@[simp] theorem unlearn (h : Moves s t) (w) : Moves s (unlearn w t) := by
  unfold Machine.unlearn
  simp (maxDischargeDepth := 40) [h]

@[simp] theorem holdChannels (h : Moves s t) (w) : Moves s (holdChannels w t) := by
  unfold Machine.holdChannels
  exact foldl _ (fun u a => by simp) _ h

@[simp] theorem holdAfterPinch (h : Moves s t) (w c) : Moves s (holdAfterPinch w c t) := by
  unfold Machine.holdAfterPinch
  simp (maxDischargeDepth := 40) [h]

@[simp] theorem finishReversal (h : Moves s t) (w c) : Moves s (finishReversal w c t) := by
  unfold Machine.finishReversal
  simp (maxDischargeDepth := 40) [h]

@[simp] theorem dropEntry (h : Moves s t) (w) : Moves s (dropEntry w t) := by
  unfold Machine.dropEntry
  simp (maxDischargeDepth := 40) [h]

@[simp] theorem settleFaulted (h : Moves s t) (w c f) : Moves s (settleFaulted w c f t) := by
  unfold Machine.settleFaulted
  simp (maxDischargeDepth := 40) [h]

@[simp] theorem settleStopped (h : Moves s t) (w c) : Moves s (settleStopped w c t) := by
  unfold Machine.settleStopped
  simp (maxDischargeDepth := 40) [h]

@[simp] theorem settleStop (h : Moves s t) (w) : Moves s (settleStop w t) := by
  unfold Machine.settleStop
  simp (maxDischargeDepth := 40) [h]

@[simp] theorem endWindowDrive (h : Moves s t) (w) : Moves s (endWindowDrive w t) := by
  unfold Machine.endWindowDrive
  simp (maxDischargeDepth := 40) [h]

@[simp] theorem endWindowBrake (h : Moves s t) (w) : Moves s (endWindowBrake w t) := by
  unfold Machine.endWindowBrake
  split <;> simp (maxDischargeDepth := 40) [h]

@[simp] theorem overcurrentWindow (h : Moves s t) (w) : Moves s (overcurrentWindow w t) := by
  unfold Machine.overcurrentWindow
  split <;> simp (maxDischargeDepth := 40) [h]

@[simp] theorem takePinch (h : Moves s t) (w) : Moves s (takePinch w t) := by
  unfold Machine.takePinch
  simp (maxDischargeDepth := 40) [h]

@[simp] theorem reachTop (h : Moves s t) (w) : Moves s (reachTop w t) := by
  unfold Machine.reachTop
  simp (maxDischargeDepth := 40) [h]

@[simp] theorem topFound (h : Moves s t) (w) : Moves s (topFound w t) := by
  unfold Machine.topFound
  simp (maxDischargeDepth := 40) [h]

@[simp] theorem bottomFound (h : Moves s t) (w) : Moves s (bottomFound w t) := by
  unfold Machine.bottomFound
  simp (maxDischargeDepth := 40) [h]

@[simp] theorem takeStall (h : Moves s t) (w) : Moves s (takeStall w t) := by
  unfold Machine.takeStall
  dsimp only
  split
  · refine ite (by simp (maxDischargeDepth := 40) [h]) ?_
    split <;> simp (maxDischargeDepth := 40) [h]
  · simp (maxDischargeDepth := 40) [h]
  · exact h


@[simp] theorem judgeNoPulse (h : Moves s t) (w a) : Moves s (judgeNoPulse w a t) := by
  unfold Machine.judgeNoPulse
  simp (maxDischargeDepth := 40) [h]

@[simp] theorem driveEdge (h : Moves s t) (w d e m) : Moves s (driveEdge w d e m t) := by
  unfold Machine.driveEdge
  dsimp only
  split <;> simp (maxDischargeDepth := 40) [h]

@[simp] theorem takeEdge (h : Moves s t) (w e) : Moves s (takeEdge w e t) := by
  unfold Machine.takeEdge
  dsimp only
  split <;> simp (maxDischargeDepth := 40) [h]

@[simp] theorem submitWindow (h : Moves s t) (w q r) : Moves s (submitWindow w q r t).1 := by
  unfold Machine.submitWindow
  simp (maxDischargeDepth := 40) [h]

@[simp] theorem retarget (h : Moves s t) (w q) : Moves s (retarget w q t) := by
  unfold Machine.retarget
  simp (maxDischargeDepth := 40) [h]

@[simp] theorem startInBrake (h : Moves s t) (w q) : Moves s (startInBrake w q t).1 := by
  unfold Machine.startInBrake
  dsimp only
  refine ite_fst ?_ ?_
  · split <;> simp (maxDischargeDepth := 40) [h]
  · simp (maxDischargeDepth := 40) [h]

@[simp] theorem applyStart (h : Moves s t) (w q) : Moves s (applyStart w q t).1 := by
  unfold Machine.applyStart
  extract_lets r x
  have k : Moves s x.1 := by
    simp only [x]
    split <;> simp (maxDischargeDepth := 40) [h]
  exact ite_fst (k.setComfort _ _) k


@[simp] theorem withdrawMovement (h : Moves s t) (w r) : Moves s (withdrawMovement w r t) := by
  unfold Machine.withdrawMovement
  simp (maxDischargeDepth := 40) [h]

@[simp] theorem applyStop (h : Moves s t) (w c x) : Moves s (applyStop w c x t).1 := by
  unfold Machine.applyStop
  dsimp only
  refine ite_fst h ?_
  split
  · simp (maxDischargeDepth := 40) [h]
  · simp (maxDischargeDepth := 40) [h]
  · simp (maxDischargeDepth := 40) [h]
  · refine ite_fst ?_ (by simp (maxDischargeDepth := 40) [h])
    split <;> simp (maxDischargeDepth := 40) [h]
  · exact h


@[simp] theorem holdChan (h : Moves s t) (c) : Moves s (holdChan c t) := by
  unfold Machine.holdChan
  simp (maxDischargeDepth := 40) [h]

@[simp] theorem takePress (h : Moves s t) (c d pos) : Moves s (takePress c d pos t) := by
  unfold Machine.takePress
  dsimp only
  refine ite (h.holdChan c) (ite ((h.applyStop _ _ _).holdChan c) ?_)
  split
  · exact h.applyStart _ _
  · exact h.holdChan c


@[simp] theorem takeRelease (h : Moves s t) (c) : Moves s (takeRelease c t) := by
  unfold Machine.takeRelease
  simp (maxDischargeDepth := 40) [h]

@[simp] theorem takeSwitch (h : Moves s t) (c x) : Moves s (takeSwitch c x t) := by
  unfold Machine.takeSwitch
  dsimp only
  refine ite h ?_
  split <;> simp (maxDischargeDepth := 40) [h]


@[simp] theorem portStart (h : Moves s t) (p w d m) : Moves s (portStart p w d m t).1 := by
  unfold Machine.portStart
  split <;> simp (maxDischargeDepth := 40) [h]

@[simp] theorem moveTo (h : Moves s t) (p w x) : Moves s (moveTo p w x t).1 := by
  unfold Machine.moveTo
  dsimp only
  split
  · exact h
  · simp (maxDischargeDepth := 40) [h]


@[simp] theorem windowRequestOwner (h : Moves s t) (p l) : Moves s (windowRequestOwner p l t).1 := by
  unfold Machine.windowRequestOwner
  dsimp only
  split
  · split <;> simp [h, refuse]
  · split <;> simp [h, refuse]
  · exact h


@[simp] theorem startNormalizing (h : Moves s t) (p w) : Moves s (startNormalizing p w t).1 := by
  unfold Machine.startNormalizing
  simp (maxDischargeDepth := 40) [h]

@[simp] theorem normalizeOwner (h : Moves s t) (p l) : Moves s (normalizeOwner p l t).1 := by
  unfold Machine.normalizeOwner
  dsimp only
  split
  · split
    · exact ite_fst h (ite_fst h (h.startNormalizing _ _))
    · exact h
  · exact h


@[simp] theorem comfortWindow (h : Moves s t) (d w) : Moves s (comfortWindow d w t) := by
  unfold Machine.comfortWindow
  split <;> simp (maxDischargeDepth := 40) [h]

@[simp] theorem startComfort (h : Moves s t) (d) : Moves s (startComfort d t) := by
  unfold Machine.startComfort
  exact foldl _ (fun u a => by simp) _ h

@[simp] theorem endComfort (h : Moves s t) : Moves s (endComfort t) := by
  unfold Machine.endComfort
  exact (foldl _ (fun u a => by simp) _ h).comfort _

@[simp] theorem takeInhibit (h : Moves s t) (d a) : Moves s (takeInhibit d a t) := by
  unfold Machine.takeInhibit
  simp (maxDischargeDepth := 40) [h]

@[simp] theorem crashWithdraw (h : Moves s t) (w) : Moves s (crashWithdraw w t) := by
  unfold Machine.crashWithdraw
  simp (maxDischargeDepth := 40) [h]

@[simp] theorem crashWindows (h : Moves s t) : Moves s (crashWindows t) := by
  unfold Machine.crashWindows
  exact ((foldl _ (fun u a => by simp) _ (foldl _ (fun u a => by simp) _ h)).comfort _).scan

end Moves
end Sys2Proof.Machine
end

