-- ==== Sys2Proof/Laws/MovesUnits.lean ====
section
/-! SUPPORT. The latch, child lock, access and crash units, the store, the supply monitor and the mode controller as moves. -/

namespace Sys2Proof.Machine
namespace Moves
variable {s t : State}

/-! ### Latch controller -/


@[simp] theorem releaseOpened (h : Moves s t) : Moves s (releaseOpened t) := by
  unfold Machine.releaseOpened
  simp (maxDischargeDepth := 40) [h]

@[simp] theorem takeAjar (h : Moves s t) (l v) : Moves s (takeAjar l v t) := by
  unfold Machine.takeAjar
  refine ite h ?_
  dsimp only
  split
  · simp [h]
  · split <;> simp (maxDischargeDepth := 40) [h]


@[simp] theorem takeLatchpos (h : Moves s t) (l v) : Moves s (takeLatchpos l v t) := by
  unfold Machine.takeLatchpos
  simp (maxDischargeDepth := 40) [h]

@[simp] theorem endEnergizedLock (h : Moves s t) (l o) : Moves s (endEnergizedLock l o t) := by
  unfold Machine.endEnergizedLock
  simp (maxDischargeDepth := 40) [h]

@[simp] theorem failLock (h : Moves s t) (l f) : Moves s (failLock l f t) := by
  unfold Machine.failLock
  simp (maxDischargeDepth := 40) [h]

@[simp] theorem succeedLock (h : Moves s t) (l d) : Moves s (succeedLock l d t) := by
  unfold Machine.succeedLock
  simp (maxDischargeDepth := 40) [h]

@[simp] theorem settleLock (h : Moves s t) (l) : Moves s (settleLock l t) := by
  unfold Machine.settleLock
  split <;> simp (maxDischargeDepth := 40) [h]

@[simp] theorem endLockHold (h : Moves s t) (l) : Moves s (endLockHold l t) := by
  unfold Machine.endLockHold
  simp (maxDischargeDepth := 40) [h]

@[simp] theorem overcurrentLock (h : Moves s t) (l) : Moves s (overcurrentLock l t) := by
  unfold Machine.overcurrentLock
  split <;> simp (maxDischargeDepth := 40) [h]

@[simp] theorem coolLatch (h : Moves s t) (l) : Moves s (coolLatch l t) := by
  unfold Machine.coolLatch
  extract_lets r heat cooled u
  have k : Moves s u := by
    refine h.latches _ fun hb m => ?_
    by_cases e : m = l
    · subst e
      have := hb m
      simp only [State.withLatches_latches, Doors.get_set_self, heat, r]
      omega
    · simpa [Doors.get_set_ne _ _ e] using hb m
  exact ite k.scan k


@[simp] theorem groupReply {x : State × Result × Nat} (h : Moves s x.1) : Moves s (groupReply x).1 := h

@[simp] theorem refuse (h : Moves s t) (r) : Moves s (refuse r t).1 := h

@[simp] theorem refuseGroup (h : Moves s t) (r) : Moves s (refuseGroup r t).1 := h

@[simp] theorem lockRequestOwner (h : Moves s t) (p l) : Moves s (lockRequestOwner p l t).1 := by
  unfold Machine.lockRequestOwner
  dsimp only
  (repeat' split) <;> simp (maxDischargeDepth := 40) [h]


@[simp] theorem takeCentral (h : Moves s t) : Moves s (takeCentral t) := by
  unfold Machine.takeCentral
  simp (maxDischargeDepth := 40) [h]

@[simp] theorem takeTurn (h : Moves s t) (k) : Moves s (takeTurn k t) := by
  unfold Machine.takeTurn
  simp (maxDischargeDepth := 40) [h]

@[simp] theorem takeKeyInput (h : Moves s t) (k a b) : Moves s (takeKeyInput k a b t) := by
  unfold Machine.takeKeyInput
  simp (maxDischargeDepth := 40) [h]

@[simp] theorem fobAction (h : Moves s t) (p k d m) : Moves s (fobAction p k d m t).1 := by
  unfold Machine.fobAction
  simp (maxDischargeDepth := 40) [h]

@[simp] theorem releaseRequest (h : Moves s t) (c so) : Moves s (releaseRequest c so t).1 := by
  unfold Machine.releaseRequest
  simp (maxDischargeDepth := 40) [h]

@[simp] theorem passiveAction (h : Moves s t) (p o m) : Moves s (passiveAction p o m t).1 := by
  unfold Machine.passiveAction
  dsimp only
  (repeat' split) <;> simp (maxDischargeDepth := 40) [h]


@[simp] theorem ignitionRelease (h : Moves s t) : Moves s (ignitionRelease t) := by
  unfold Machine.ignitionRelease
  dsimp only
  split <;> simp (maxDischargeDepth := 40) [h]

@[simp] theorem relock (h : Moves s t) : Moves s (relock t) := by
  unfold Machine.relock
  exact ite (h.presses _) ((h.presses _).runInternal _)


@[simp] theorem tailgateOwner (h : Moves s t) (p l) : Moves s (tailgateOwner p l t).1 := by
  unfold Machine.tailgateOwner
  dsimp only
  (repeat' split) <;> simp (maxDischargeDepth := 40) [h]


@[simp] theorem failRelease (h : Moves s t) (o) : Moves s (failRelease o t) := by
  unfold Machine.failRelease
  simp (maxDischargeDepth := 40) [h]

@[simp] theorem endPulseTime (h : Moves s t) (o) : Moves s (endPulseTime o t) := by
  unfold Machine.endPulseTime
  simp (maxDischargeDepth := 40) [h]

@[simp] theorem overcurrentRelease (h : Moves s t) : Moves s (overcurrentRelease t) := by
  unfold Machine.overcurrentRelease
  split <;> simp (maxDischargeDepth := 40) [h]

/-! ### Child lock unit -/


@[simp] theorem evalInhibit (h : Moves s t) (c) : Moves s (evalInhibit c t) := by
  unfold Machine.evalInhibit
  simp (maxDischargeDepth := 40) [h]

@[simp] theorem evalInhibits (h : Moves s t) : Moves s (evalInhibits t) := by
  unfold Machine.evalInhibits
  simp (maxDischargeDepth := 40) [h]

@[simp] theorem setChildState (h : Moves s t) (c v) : Moves s (setChildState c v t) := by
  unfold Machine.setChildState
  simp (maxDischargeDepth := 40) [h]

@[simp] theorem takeChpos (h : Moves s t) (c v) : Moves s (takeChpos c v t) := by
  unfold Machine.takeChpos
  simp (maxDischargeDepth := 40) [h]

@[simp] theorem endEnergizedChild (h : Moves s t) (c o) : Moves s (endEnergizedChild c o t) := by
  unfold Machine.endEnergizedChild
  simp (maxDischargeDepth := 40) [h]

@[simp] theorem failChild (h : Moves s t) (c f) : Moves s (failChild c f t) := by
  unfold Machine.failChild
  simp (maxDischargeDepth := 40) [h]

@[simp] theorem succeedChild (h : Moves s t) (c d) : Moves s (succeedChild c d t) := by
  unfold Machine.succeedChild
  simp (maxDischargeDepth := 40) [h]

@[simp] theorem settleChild (h : Moves s t) (c) : Moves s (settleChild c t) := by
  unfold Machine.settleChild
  split <;> simp (maxDischargeDepth := 40) [h]

@[simp] theorem overcurrentChild (h : Moves s t) (c) : Moves s (overcurrentChild c t) := by
  unfold Machine.overcurrentChild
  split <;> simp (maxDischargeDepth := 40) [h]

@[simp] theorem childOperation (h : Moves s t) (so p l a) : Moves s (childOperation so p l a t).1 := by
  unfold Machine.childOperation
  simp (maxDischargeDepth := 40) [h]

@[simp] theorem childLockOwner (h : Moves s t) (p l) : Moves s (childLockOwner p l t).1 := by
  unfold Machine.childLockOwner
  (repeat' split) <;> simp (maxDischargeDepth := 40) [h]

@[simp] theorem takeChildButton (h : Moves s t) : Moves s (takeChildButton t) := by
  unfold Machine.takeChildButton
  simp (maxDischargeDepth := 40) [h]

@[simp] theorem setRearInhibit (h : Moves s t) (v) : Moves s (setRearInhibit v t) := by
  unfold Machine.setRearInhibit
  simp (maxDischargeDepth := 40) [h]

@[simp] theorem rearInhibitOwner (h : Moves s t) (p l) : Moves s (rearInhibitOwner p l t).1 := by
  unfold Machine.rearInhibitOwner
  (repeat' split) <;> simp (maxDischargeDepth := 40) [h]

/-! ### Fob table -/

/-- A change of one slot that keeps its identifier, its counter, its ceiling and whether it is enrolled. -/
theorem modFob_same (h : Moves s t) (k : SlotId) (f : Fob → Fob)
    (e : (f (t.fobs.get k)).enrolled = (t.fobs.get k).enrolled ∧ (f (t.fobs.get k)).ident = (t.fobs.get k).ident ∧
      (f (t.fobs.get k)).counter = (t.fobs.get k).counter ∧ (f (t.fobs.get k)).ceiling = (t.fobs.get k).ceiling) :
    Moves s (t.modFob k f) := by
  obtain ⟨e1, e2, e3, e4⟩ := e
  have key : ∀ j, ((t.fobs.set k (f (t.fobs.get k))).get j).enrolled = (t.fobs.get j).enrolled ∧
      ((t.fobs.set k (f (t.fobs.get k))).get j).ident = (t.fobs.get j).ident ∧
      ((t.fobs.set k (f (t.fobs.get k))).get j).counter = (t.fobs.get j).counter ∧
      ((t.fobs.set k (f (t.fobs.get k))).get j).ceiling = (t.fobs.get j).ceiling := by
    intro j
    rw [Slots.get_set]
    split
    · rename_i hj
      subst hj
      exact ⟨e1, e2, e3, e4⟩
    · exact ⟨rfl, rfl, rfl, rfl⟩
  refine h.fobs _ ⟨fun hd i j hi hj hij => ?_, fun hc j hj => ?_⟩
  · rw [(key i).1] at hi
    rw [(key j).1] at hj
    rw [(key i).2.1, (key j).2.1] at hij
    exact hd i j hi hj hij
  · rw [(key j).1] at hj
    rw [(key j).2.2.1, (key j).2.2.2]
    exact hc j hj

/-- A slot takes new content whose identifier no other enrolled slot holds and whose ceiling is ahead. -/
theorem modFob_new (h : Moves s t) (k : SlotId) (f : Fob → Fob)
    (hd : FobsDistinct t.fobs → (f (t.fobs.get k)).enrolled = true →
      ∀ j, j ≠ k → (t.fobs.get j).enrolled = true → (t.fobs.get j).ident ≠ (f (t.fobs.get k)).ident)
    (hc : CeilingAhead t.fobs → (f (t.fobs.get k)).enrolled = true →
      1 ≤ ((f (t.fobs.get k)).ceiling - (f (t.fobs.get k)).counter).toNat ∧
        ((f (t.fobs.get k)).ceiling - (f (t.fobs.get k)).counter).toNat ≤ 32) :
    Moves s (t.modFob k f) := by
  refine h.fobs _ ⟨fun h0 i j hi hj hij => ?_, fun h0 j hj => ?_⟩
  · rw [Slots.get_set] at hi hj
    rw [Slots.get_set, Slots.get_set] at hij
    by_cases ei : i = k <;> by_cases ej : j = k
    · rw [ei, ej]
    · simp only [ei, ej, if_true, if_false] at hi hj hij
      exact absurd hij.symm (hd h0 hi j ej hj)
    · simp only [ei, ej, if_true, if_false] at hi hj hij
      exact absurd hij (hd h0 hj i ei hi)
    · simp only [ei, ej, if_false] at hi hj hij
      exact h0 i j hi hj hij
  · rw [Slots.get_set] at hj ⊢
    by_cases ej : j = k
    · simp only [ej, if_true] at hj ⊢
      exact hc h0 hj
    · simp only [ej, if_false] at hj ⊢
      exact h0 j hj

@[simp] theorem writeFob (h : Moves s t) (k) : Moves s (writeFob k t) := h.storeWrite _ _

@[simp] theorem endPressComfort (h : Moves s t) : Moves s (endPressComfort t) := by
  unfold Machine.endPressComfort
  simp [h]

@[simp] theorem releaseTracker (h : Moves s t) : Moves s (releaseTracker t) := h.endPressComfort.tracker _

@[simp] theorem trackPress (h : Moves s t) (k b) : Moves s (trackPress k b t) := h.endPressComfort.tracker _


@[simp] theorem trackRepeat (h : Moves s t) (k) : Moves s (trackRepeat k t) := by
  unfold Machine.trackRepeat
  dsimp only
  split <;> simp (maxDischargeDepth := 40) [h]

@[simp] theorem crashTracker (h : Moves s t) : Moves s (crashTracker t) := by
  exact h.endPressComfort.tracker _

/-- The slot update of an accepted press keeps the ceiling ahead: the counter is 1 to 32768 ahead of the last one. -/
theorem acceptPress (h : Moves s t) (k c b v) (hc : 1 ≤ counterDistance c (t.fobs.get k).counter)
    (hw : counterDistance c (t.fobs.get k).counter ≤ 32768) : Moves s (acceptPress k c b v t) := by
  unfold Machine.acceptPress
  dsimp only
  have key : ∀ f : Fob → Fob, (f (t.fobs.get k)).enrolled = (t.fobs.get k).enrolled →
      (f (t.fobs.get k)).ident = (t.fobs.get k).ident → (f (t.fobs.get k)).counter = c →
      (f (t.fobs.get k)).ceiling = (if atCeiling c (t.fobs.get k).ceiling then c + 32 else (t.fobs.get k).ceiling) →
      Moves s (t.modFob k f) := by
    intro f e1 e2 e3 e4
    refine h.modFob_new k f (fun h0 he j hj hjn hij => ?_) fun h0 he => ?_
    · exact hj (h0 j k hjn (e1 ▸ he) (hij.trans e2))
    · have h1 := h0 k (e1 ▸ he)
      rw [e3, e4]
      unfold atCeiling counterDistance at *
      generalize (t.fobs.get k).counter = l at *
      generalize (t.fobs.get k).ceiling = m at *
      simp only [decide_eq_true_eq]
      split
      · rename_i hp
        have h32 : (32 : Word32).toNat = 32 := rfl
        simp only [BitVec.toNat_sub, BitVec.toNat_add, h32] at *
        omega
      · rename_i hp
        simp only [BitVec.toNat_sub] at *
        omega
  split
  · rename_i hp
    refine offer (writeFob (key _ rfl rfl rfl ?_) k) _
    simp [hp]
  · rename_i hp
    refine offer (key _ rfl rfl rfl ?_) _
    simp [hp]


@[simp] theorem pressAction (h : Moves s t) (p k b) : Moves s (pressAction p k b t).1 := by
  unfold Machine.pressAction
  dsimp only
  split <;> simp (maxDischargeDepth := 40) [h]

theorem newPress (h : Moves s t) (p k c b v) (hc : 1 ≤ counterDistance c (t.fobs.get k).counter)
    (hw : counterDistance c (t.fobs.get k).counter ≤ 32768) : Moves s (newPress p k c b v t).1 :=
  (((h.acceptPress k c b v hc hw).trackPress k b).pressAction p k b).tracker _

theorem rejectPress (h : Moves s t) (k r) (f : Fob → Fob)
    (e : (f (t.fobs.get k)).enrolled = (t.fobs.get k).enrolled ∧ (f (t.fobs.get k)).ident = (t.fobs.get k).ident ∧
      (f (t.fobs.get k)).counter = (t.fobs.get k).counter ∧ (f (t.fobs.get k)).ceiling = (t.fobs.get k).ceiling) :
    Moves s (rejectPress k r f t).1 := (h.modFob_same k f e).offer _

@[simp] theorem repeatPress (h : Moves s t) (k) : Moves s (repeatPress k t).1 := by
  unfold Machine.repeatPress
  dsimp only
  have k1 := h.modFob_same k (fun f => { f with verdict := .repeated, press := f.press.map fun x => { x with repeatSeen := true } })
    ⟨rfl, rfl, rfl, rfl⟩
  exact (ite (k1.offer _) k1).trackRepeat k

/-- An accepted or resynced counter is 1 to 32768 ahead (R119). -/
theorem judged_ahead {k c b n} (hj : t.judgeTelegram k c b n = .accepted ∨ t.judgeTelegram k c b n = .resynced) :
    1 ≤ counterDistance c (t.fobs.get k).counter ∧ counterDistance c (t.fobs.get k).counter ≤ 32768 := by
  have hw : t.cfg.window ≤ 32768 := by
    have := ((t.cfg.toList).getD 10 0#8).isLt
    unfold Image.window Image.byte
    omega
  unfold State.judgeTelegram at hj
  dsimp only at hj
  split at hj
  · split at hj <;> simp at hj
  · split at hj
    · omega
    · split at hj
      · omega
      · simp at hj

@[simp] theorem takeTelegram (h : Moves s t) (p i c b n) : Moves s (takeTelegram p i c b n t).1 := by
  unfold Machine.takeTelegram
  split
  · exact h.offer _
  · refine ite_fst (h.rejectPress _ _ _ ⟨rfl, rfl, rfl, rfl⟩) ?_
    split
    · rename_i hj
      exact h.newPress _ _ _ _ _ (judged_ahead (.inl hj)).1 (judged_ahead (.inl hj)).2
    · rename_i hj
      exact h.newPress _ _ _ _ _ (judged_ahead (.inr hj)).1 (judged_ahead (.inr hj)).2
    · exact h.repeatPress _
    · exact h.rejectPress _ _ _ ⟨rfl, rfl, rfl, rfl⟩
    · exact h.rejectPress _ _ _ ⟨rfl, rfl, rfl, rfl⟩


@[simp] theorem telegramOwner (h : Moves s t) (p l) : Moves s (telegramOwner p l t).1 := by
  unfold Machine.telegramOwner
  (repeat' split) <;> simp (maxDischargeDepth := 40) [h]

@[simp] theorem startSearch (h : Moves s t) (o) : Moves s (startSearch o t) := by
  unfold Machine.startSearch
  simp (maxDischargeDepth := 40) [h]

@[simp] theorem takeTrigger (h : Moves s t) (o) : Moves s (takeTrigger o t) := by
  unfold Machine.takeTrigger
  simp (maxDischargeDepth := 40) [h]

@[simp] theorem takeTgButton (h : Moves s t) : Moves s (takeTgButton t) := by
  unfold Machine.takeTgButton
  simp (maxDischargeDepth := 40) [h]

@[simp] theorem readSearchOwner (h : Moves s t) (p l) : Moves s (readSearchOwner p l t).1 := by
  unfold Machine.readSearchOwner
  (repeat' split) <;> simp (maxDischargeDepth := 40) [h]

@[simp] theorem endSearch (h : Moves s t) (o k z i) : Moves s (endSearch o k z i t) := by
  unfold Machine.endSearch
  simp (maxDischargeDepth := 40) [h]

@[simp] theorem judgeResult (h : Moves s t) (p o k z i f) : Moves s (judgeResult p o k z i f t).1 := by
  unfold Machine.judgeResult
  dsimp only
  refine ite_fst (by simp (maxDischargeDepth := 40) [h]) ?_
  split <;> simp (maxDischargeDepth := 40) [h]


@[simp] theorem matchResult (h : Moves s t) (p o f i) : Moves s (matchResult p o f i t).1 := by
  unfold Machine.matchResult
  simp (maxDischargeDepth := 40) [h]

@[simp] theorem takeResult (h : Moves s t) (p n f i) : Moves s (takeResult p n f i t).1 := by
  unfold Machine.takeResult
  split <;> simp (maxDischargeDepth := 40) [h]


@[simp] theorem searchResultOwner (h : Moves s t) (p l) : Moves s (searchResultOwner p l t).1 := by
  unfold Machine.searchResultOwner
  (repeat' split) <;> simp (maxDischargeDepth := 40) [h]

@[simp] theorem crashAccess (h : Moves s t) : Moves s (crashAccess t) := by
  unfold Machine.crashAccess
  simp (maxDischargeDepth := 40) [h]

theorem administer (h : Moves s t) (act : State → State × Reply) (k : Moves s (act t).1) : Moves s (administer act t).1 := by
  unfold Machine.administer
  split
  · exact h
  · exact k

theorem findFob_none {i : Word32} (hn : t.findFob i = none) (j : SlotId) (he : (t.fobs.get j).enrolled = true) :
    (t.fobs.get j).ident ≠ i := by
  unfold State.findFob at hn
  rw [List.find?_eq_none] at hn
  have := hn j (by cases j <;> decide)
  simp_all

@[simp] theorem enrol (h : Moves s t) (k i c m b) : Moves s (enrol k i c m b t).1 := by
  unfold Machine.enrol
  refine ite_fst h ?_
  split
  · exact h
  · rename_i hn
    refine patternRequest (writeFob (h.modFob_new k _ (fun _ _ j _ hj => ?_) fun _ _ => ?_) k) 5
    · exact findFob_none (by simpa using hn) j hj
    · have h32 : (32 : Word32).toNat = 32 := rfl
      simp only [BitVec.toNat_sub, BitVec.toNat_add, h32]
      omega

@[simp] theorem letGo (h : Moves s t) (k) : Moves s (letGo k t) := by
  unfold Machine.letGo
  simp [h]

@[simp] theorem removeSlot (h : Moves s t) (k) : Moves s (removeSlot k t).1 := by
  unfold Machine.removeSlot
  refine ite_fst h (letGo (writeFob (h.modFob_new k _ (fun _ he => ?_) fun _ he => ?_) k) k) <;>
    exact absurd he (by decide)

@[simp] theorem suspendSlot (h : Moves s t) (k) : Moves s (suspendSlot k t).1 := by
  unfold Machine.suspendSlot
  split
  · rename_i hs
    refine letGo (writeFob (h.modFob_same k _ ⟨?_, rfl, rfl, rfl⟩) k) k
    simp [Fob.enrolled, hs]
  · exact h
  · exact h

@[simp] theorem reinstateSlot (h : Moves s t) (k) : Moves s (reinstateSlot k t).1 := by
  unfold Machine.reinstateSlot
  split
  · rename_i hs
    refine writeFob (h.modFob_same k _ ⟨?_, rfl, rfl, rfl⟩) k
    simp [Fob.enrolled, hs]
  · exact h
  · exact h

@[simp] theorem setFobMode (h : Moves s t) (k m b) : Moves s (setFobMode k m b t).1 := by
  unfold Machine.setFobMode
  exact ite_fst h (ite_fst h (writeFob (h.modFob_same k _ ⟨rfl, rfl, rfl, rfl⟩) k))

@[simp] theorem enrolOwner (h : Moves s t) (p l) : Moves s (enrolOwner p l t).1 := by
  unfold Machine.enrolOwner
  (repeat' split) <;> first | exact h | exact h.administer _ (by simp [h])

theorem slotOwner (h : Moves s t) (act : SlotId → State → State × Reply) (k : ∀ j, Moves s (act j t).1) (p l) :
    Moves s (slotOwner act p l t).1 := by
  unfold Machine.slotOwner
  (repeat' split) <;> first | exact h | exact h.administer _ (k _)

@[simp] theorem setFobModeOwner (h : Moves s t) (p l) : Moves s (setFobModeOwner p l t).1 := by
  unfold Machine.setFobModeOwner
  (repeat' split) <;> first | exact h | exact h.administer _ (by simp [h])

/-! ### Crash unit -/


@[simp] theorem setCrash (h : Moves s t) (b n) : Moves s (setCrash b n t) := by
  unfold Machine.setCrash
  simp (maxDischargeDepth := 40) [h]

@[simp] theorem crashUnlock (h : Moves s t) (p l) : Moves s (crashUnlock p l t).1 := by
  unfold Machine.crashUnlock
  simp (maxDischargeDepth := 40) [h]

@[simp] theorem unlockLocked (h : Moves s t) (p) : Moves s (unlockLocked p t).1 := by
  unfold Machine.unlockLocked
  split <;> simp (maxDischargeDepth := 40) [h]

@[simp] theorem dismissAllLocking (h : Moves s t) : Moves s (dismissAllLocking t) := by
  unfold Machine.dismissAllLocking
  exact foldl _ (fun u a => by simp) _ h

@[simp] theorem latchCrash (h : Moves s t) (p n) : Moves s (latchCrash p n t).1 := by
  unfold Machine.latchCrash
  simp (maxDischargeDepth := 40) [h]

@[simp] theorem furtherCrash (h : Moves s t) (p n) : Moves s (furtherCrash p n t).1 := by
  unfold Machine.furtherCrash
  simp (maxDischargeDepth := 40) [h]

@[simp] theorem takeCrash (h : Moves s t) (p n) : Moves s (takeCrash p n t).1 := by
  unfold Machine.takeCrash
  simp (maxDischargeDepth := 40) [h]

@[simp] theorem lineCrash (h : Moves s t) : Moves s (lineCrash t) := by
  unfold Machine.lineCrash
  simp (maxDischargeDepth := 40) [h]

@[simp] theorem measureLow (h : Moves s t) : Moves s (measureLow t) := by
  unfold Machine.measureLow
  dsimp only
  split <;> simp (maxDischargeDepth := 40) [h]

@[simp] theorem endLow (h : Moves s t) : Moves s (endLow t) := by
  unfold Machine.endLow
  dsimp only
  split <;> simp (maxDischargeDepth := 40) [h]

@[simp] theorem crashNoticeOwner (h : Moves s t) (p l) : Moves s (crashNoticeOwner p l t).1 := by
  unfold Machine.crashNoticeOwner
  (repeat' split) <;> simp (maxDischargeDepth := 40) [h]

@[simp] theorem crashClearOwner (h : Moves s t) (p l) : Moves s (crashClearOwner p l t).1 := by
  unfold Machine.crashClearOwner
  (repeat' split) <;> simp (maxDischargeDepth := 40) [h]

/-! ### Store -/


theorem startProgram (h : Moves s t) (l rest) (hq : t.store.queue = l :: rest) : Moves s (startProgram l rest t) := by
  refine h.store _ fun k => ?_
  unfold StoreQueueOnce at *
  rw [hq] at k
  exact k.of_cons

@[simp] theorem programDone (h : Moves s t) (g) : Moves s (programDone g t) := h.store _ id

@[simp] theorem relocate (h : Moves s t) (g r) : Moves s (relocate g r t) := h.store _ id

@[simp] theorem exhaust (h : Moves s t) (g) : Moves s (exhaust g t) := by
  refine offer (h.store _ fun k => ?_) _
  exact k.filter _

@[simp] theorem programFailed (h : Moves s t) (g) : Moves s (programFailed g t) := by
  unfold Machine.programFailed
  have k := (h.store { t.store with map := t.store.map.set g.target .retired } id).offer .storeRetired
  dsimp only
  split
  · exact k.relocate _ _
  · exact k.exhaust _

@[simp] theorem endProgram (h : Moves s t) (g r) : Moves s (endProgram g r t) := by
  unfold Machine.endProgram
  have k (x) := h.store { t.store with array := x } id
  exact ite ((k _).programDone g) ((k _).programFailed g)

@[simp] theorem endScan (h : Moves s t) : Moves s (endScan t) := by
  unfold Machine.endScan
  have k := (h.store (scanStore t.store) id).sys { t.sys with scanDue := none }
  exact ite k (k.offer _)

@[simp] theorem stageOwner (h : Moves s t) (p l) : Moves s (stageOwner p l t).1 := by
  unfold Machine.stageOwner
  split
  · exact ite_fst h (ite_fst h (h.store _ id))
  · exact h

@[simp] theorem writeImage (h : Moves s t) (i) : Moves s (writeImage i t) := by
  unfold Machine.writeImage
  simp (maxDischargeDepth := 40) [h]

@[simp] theorem commitImage (h : Moves s t) (i) : Moves s (commitImage i t) := by
  unfold Machine.commitImage
  have k := ((h.store { t.store with staging := none } id).writeImage i).offer .configCommitted
  exact ite k k.evalInhibits

@[simp] theorem commitOwner (h : Moves s t) (p l) : Moves s (commitOwner p l t).1 := by
  unfold Machine.commitOwner
  split
  · refine ite_fst h (ite_fst (offer (h.store _ ?_) _) (h.commitImage _))
    exact id
  · exact h

/-! ### Supply monitor and context unit -/


@[simp] theorem handBand (h : Moves s t) (b) : Moves s (handBand b t) := by
  unfold Machine.handBand
  simp (maxDischargeDepth := 40) [h]

@[simp] theorem handBudget (h : Moves s t) (b) : Moves s (handBudget b t) := by
  unfold Machine.handBudget
  simp (maxDischargeDepth := 40) [h]

theorem budgetOf_le (v : Nat) : budgetOf v ≤ 20 := Nat.min_le_left _ _

theorem pushSample_length (l : List Nat) (r : Nat) : (pushSample l r).length ≤ 8 := by
  simp only [pushSample, List.length_drop, List.length_append, List.length_singleton]
  omega



@[simp] theorem ignitionChanged (h : Moves s t) (a b) : Moves s (ignitionChanged a b t) := by
  unfold Machine.ignitionChanged
  simp (maxDischargeDepth := 40) [h]

@[simp] theorem writeContext (h : Moves s t) (i v) : Moves s (writeContext i v t) := by
  unfold Machine.writeContext
  simp (maxDischargeDepth := 40) [h]

@[simp] theorem setContextOwner (h : Moves s t) (p l) : Moves s (setContextOwner p l t).1 := by
  unfold Machine.setContextOwner
  (repeat' split) <;> simp (maxDischargeDepth := 40) [h]

@[simp] theorem becomeStale (h : Moves s t) : Moves s (becomeStale t) := by
  unfold Machine.becomeStale
  simp (maxDischargeDepth := 40) [h]

/-! ### Stage reports, events and status -/


@[simp] theorem takeOvercurrent (h : Moves s t) (a) : Moves s (takeOvercurrent a t) := by
  unfold Machine.takeOvercurrent
  split <;> simp (maxDischargeDepth := 40) [h]

@[simp] theorem takeStageStall (h : Moves s t) (a o) : Moves s (takeStageStall a o t) := by
  unfold Machine.takeStageStall
  refine ite ?_ h
  split <;> simp [h]

@[simp] theorem nopOwner (h : Moves s t) (p l) : Moves s (nopOwner p l t).1 := by
  unfold Machine.nopOwner
  exact ite_fst h h


@[simp] theorem readStatusOwner (h : Moves s t) (p l) : Moves s (readStatusOwner p l t).1 := by
  unfold Machine.readStatusOwner
  (repeat' split) <;> simp (maxDischargeDepth := 40) [h]

theorem and_used (x : Word32) : wordUsed (x &&& usedBits) := by
  unfold wordUsed
  rw [BitVec.and_assoc, BitVec.and_self]

theorem clear_used {r : EventRec} (m n d) (h : r.Used) : (r.clear m n d).Used := by
  refine ⟨?_, h.2⟩
  have h1 := h.1
  unfold wordUsed EventRec.clear at *
  dsimp only
  rw [BitVec.and_assoc, BitVec.and_comm (~~~_), ← BitVec.and_assoc, h1]

@[simp] theorem clearEventsOwner (h : Moves s t) (p l) : Moves s (clearEventsOwner p l t).1 := by
  unfold Machine.clearEventsOwner
  split
  · exact h.modEvents _ _ fun _ k => clear_used _ _ _ k
  · exact h

@[simp] theorem setEventEnableOwner (h : Moves s t) (p l) : Moves s (setEventEnableOwner p l t).1 := by
  unfold Machine.setEventEnableOwner
  split
  · exact Moves.modEvents h p (fun r => r.enable _) fun _ k => ⟨k.1, and_used _⟩
  · exact h

/-! ### Start-up, resets and PARK -/


@[simp] theorem deriveLatch (h : Moves s t) (l) : Moves s (deriveLatch l t) := by
  unfold Machine.deriveLatch
  extract_lets pos dead st r u
  have k : Moves s u := h.modLatch l _ fun _ _ => Nat.zero_le 20
  split
  · exact ite (k.writeStateByte _ _) k
  · exact k


@[simp] theorem deriveChild (h : Moves s t) (c) : Moves s (deriveChild c t) := by
  unfold Machine.deriveChild
  simp (maxDischargeDepth := 40) [h]

@[simp] theorem deriveInhibit (h : Moves s t) : Moves s (deriveInhibit t) := by
  unfold Machine.deriveInhibit
  simp (maxDischargeDepth := 40) [h]

@[simp] theorem deriveWindow (h : Moves s t) (w) : Moves s (deriveWindow w t) := by
  unfold Machine.deriveWindow
  simp (maxDischargeDepth := 40) [h]

@[simp] theorem deriveChan (h : Moves s t) (c) : Moves s (deriveChan c t) := by
  unfold Machine.deriveChan
  simp (maxDischargeDepth := 40) [h]

theorem enrolled_slotFromRow (c : Content) (h : (slotFromRow c).enrolled = true) :
    ((slotFromRow c).ceiling - (slotFromRow c).counter).toNat = 32 := by
  unfold slotFromRow at *
  dsimp only at *
  split at h
  · exact absurd h (by decide)
  · split at h
    · simp_all
    · split at h
      · simp_all
      · exact absurd h (by decide)

/-- The first `n` slots are told apart and have their ceilings ahead. -/
def FobsUpTo (n : Nat) (t : Slots Fob) : Prop :=
  (∀ j k : SlotId, j.index < n → k.index < n → (t.get j).enrolled = true → (t.get k).enrolled = true →
    (t.get j).ident = (t.get k).ident → j = k) ∧
  ∀ k : SlotId, k.index < n → (t.get k).enrolled = true →
    1 ≤ ((t.get k).ceiling - (t.get k).counter).toNat ∧ ((t.get k).ceiling - (t.get k).counter).toNat ≤ 32

theorem index_inj {j k : SlotId} (h : j.index = k.index) : j = k := by
  cases j <;> cases k <;> first | rfl | exact absurd h (by decide)

theorem deriveSlot_upTo (k : SlotId) (h : FobsUpTo k.index t.fobs) : FobsUpTo (k.index + 1) (deriveSlot k t).fobs := by
  unfold deriveSlot
  extract_lets f taken
  set g : Fob := if (f.enrolled && taken) = true then { Fob.reset with state := .invalid } else f with hg
  have hge : g.enrolled = true → f.enrolled = true ∧ taken = false ∧ g = f := by
    intro he
    rw [hg] at he ⊢
    split at he
    · exact absurd he (by decide)
    · rename_i hc
      refine ⟨he, ?_, by simp [hc]⟩
      simpa [he] using hc
  have htaken : taken = false → ∀ j : SlotId, j.index < k.index → (t.fobs.get j).enrolled = true →
      (t.fobs.get j).ident ≠ f.ident := by
    intro hf j hj he hi
    have hm : j ∈ SlotId.list := by cases j <;> decide
    have := (List.any_eq_false.mp hf) j hm
    simp [hj, he, hi] at this
  have hget : ∀ j, (t.fobs.set k g).get j = if j = k then g else t.fobs.get j := fun j => Slots.get_set _ _ _ _
  refine ⟨fun i j hi hj ei ej hij => ?_, fun j hj ej => ?_⟩
  · simp only [State.modFob, State.withFobs_fobs] at ei ej hij
    rw [hget] at ei ej
    rw [hget, hget] at hij
    by_cases hik : i = k <;> by_cases hjk : j = k
    · rw [hik, hjk]
    · have hj' : j.index < k.index := by
        have : j.index ≠ k.index := fun e => hjk (index_inj e)
        omega
      simp only [hik, hjk, if_true, if_false] at ei ej hij
      obtain ⟨_, ht, hgf⟩ := hge ei
      exact absurd (hij.symm.trans (by rw [hgf])) (htaken ht j hj' ej)
    · have hi' : i.index < k.index := by
        have : i.index ≠ k.index := fun e => hik (index_inj e)
        omega
      simp only [hik, hjk, if_true, if_false] at ei ej hij
      obtain ⟨_, ht, hgf⟩ := hge ej
      exact absurd (hij.trans (by rw [hgf])) (htaken ht i hi' ei)
    · have hi' : i.index < k.index := by
        have : i.index ≠ k.index := fun e => hik (index_inj e)
        omega
      have hj' : j.index < k.index := by
        have : j.index ≠ k.index := fun e => hjk (index_inj e)
        omega
      simp only [hik, hjk, if_false] at ei ej hij
      exact h.1 i j hi' hj' ei ej hij
  · simp only [State.modFob, State.withFobs_fobs] at ej ⊢
    rw [hget] at ej ⊢
    by_cases hjk : j = k
    · simp only [hjk, if_true] at ej ⊢
      obtain ⟨hf, _, hgf⟩ := hge ej
      rw [hgf, enrolled_slotFromRow _ hf]
      omega
    · have hj' : j.index < k.index := by
        have : j.index ≠ k.index := fun e => hjk (index_inj e)
        omega
      simp only [hjk, if_false] at ej ⊢
      exact h.2 j hj' ej

/-- After the derivation of the six slots the fob table has its facts, whatever it held (R114, R115, R120). -/
theorem derived_upTo (t : State) : FobsUpTo 6 (SlotId.list.foldl (fun s k => deriveSlot k s) t).fobs := by
  have h0 : FobsUpTo SlotId.s0.index t.fobs :=
    ⟨fun j _ h => absurd h (Nat.not_lt_zero _), fun j h => absurd h (Nat.not_lt_zero _)⟩
  exact deriveSlot_upTo (t := _) .s5 (deriveSlot_upTo (t := _) .s4 (deriveSlot_upTo (t := _) .s3
    (deriveSlot_upTo (t := _) .s2 (deriveSlot_upTo (t := _) .s1 (deriveSlot_upTo (t := t) .s0 h0)))))

theorem deriveSlots_with (t : State) (l : List SlotId) :
    l.foldl (fun s k => deriveSlot k s) t = t.withFobs (l.foldl (fun s k => deriveSlot k s) t).fobs := by
  induction l generalizing t with
  | nil => rfl
  | cons k l ih =>
    rw [List.foldl_cons, ih]
    rfl

@[simp] theorem rewriteSlot (h : Moves s t) (k) : Moves s (rewriteSlot k t) := by
  unfold Machine.rewriteSlot
  simp [h]

@[simp] theorem deriveFobs (h : Moves s t) : Moves s (deriveFobs t) := by
  unfold Machine.deriveFobs
  refine foldl _ (fun u a => by simp) _ ?_
  rw [deriveSlots_with]
  have k := derived_upTo t
  have hi : ∀ j : SlotId, j.index < 6 := by intro j; cases j <;> decide
  exact h.fobs _ ⟨fun _ i j => k.1 i j (hi i) (hi j), fun _ j => k.2 j (hi j)⟩


@[simp] theorem deriveCrash (h : Moves s t) : Moves s (deriveCrash t) := by
  unfold Machine.deriveCrash
  simp (maxDischargeDepth := 40) [h]

@[simp] theorem deriveRecords (h : Moves s t) : Moves s (deriveRecords t) := by
  unfold Machine.deriveRecords
  refine deriveCrash (deriveFobs (foldl _ (fun u a => by simp) _ (foldl _ (fun u a => by simp) _ (deriveInhibit ?_))))
  exact foldl _ (fun u a => by simp) _ (foldl _ (fun u a => by simp) _ (h.sys _))


@[simp] theorem startCrash (h : Moves s t) : Moves s (startCrash t) := by
  unfold Machine.startCrash
  simp (maxDischargeDepth := 40) [h]

@[simp] theorem endStarting (h : Moves s t) : Moves s (endStarting t) := by
  unfold Machine.endStarting
  simp (maxDischargeDepth := 40) [h]

@[simp] theorem restartOwner (h : Moves s t) (p l) : Moves s (restartOwner p l t).1 := by
  unfold Machine.restartOwner
  (repeat' split) <;> simp (maxDischargeDepth := 40) [h]

@[simp] theorem takeParkIdle (h : Moves s t) : Moves s (takeParkIdle t) := by
  unfold Machine.takeParkIdle
  exact ite ((h.sys _).sampleDue _) ((h.sys _).offer _)

end Moves

/-! ### A new V_f and the resets -/

/-- A chain that keeps the window budget, B being free to change. -/
structure Kept (s t : State) : Prop where
  chain : Chain s t
  window : WindowBudget s → WindowBudget t

theorem Moves.kept {s t : State} (h : Moves s t) : Kept s t := ⟨h.chain, h.window⟩

theorem Kept.moves {s t u : State} (h : Kept s t) (k : Moves t u) : Kept s u :=
  ⟨h.chain.trans k.chain, fun x => k.window (h.window x)⟩

theorem Kept.trans {s t u : State} (h : Kept s t) (k : Kept t u) : Kept s u :=
  ⟨h.chain.trans k.chain, fun x => k.window (h.window x)⟩

theorem Kept.ite {s a b : State} {c : Prop} [Decidable c] (ha : Kept s a) (hb : Kept s b) : Kept s (if c then a else b) := by
  split
  · exact ha
  · exact hb

theorem wake_arb (s : State) : (wake s).arb = s.arb := by
  unfold wake
  split <;> rfl

theorem brakeWindow_arb (w : Win) (s : State) : (brakeWindow w s).arb = s.arb := by
  unfold brakeWindow
  split
  · rfl
  · simp only [State.setStage, State.modWindow, State.withStages_arb, State.withWindows_arb]

theorem windowRevoked_arb (w : Win) (c : StopCause) (s : State) : (windowRevoked w c s).arb = s.arb := by
  simp only [windowRevoked, endRun, State.setComfort, State.modWindow, State.modPinch, State.withComfort_arb,
    State.withWindows_arb, State.withPinch_arb, brakeWindow_arb]

theorem revokeWindow_running (w : Win) (s : State) :
    (revokeWindow w s).arb.running = s.arb.running.filter (·.act != .window w) := by
  unfold revokeWindow offer captureAll
  rw [State.withEvents_arb, wake_arb, windowRevoked_arb]
  unfold addHold
  split <;> rfl

theorem windowUnits_none {s : State} (h : ∀ d ∈ s.arb.running, ∀ w, d.act ≠ .window w) : s.windowUnits = 0 := by
  unfold State.windowUnits
  rw [List.filter_eq_nil_iff.mpr]
  · rfl
  · intro d hd
    cases hda : d.act with
    | window w => exact absurd hda (h d hd w)
    | _ => simp [actIsWindow]

/-- Revocation after a fall of B leaves the windows within the budget, whatever they were before (R23). -/
theorem revokeUntil_window {e : State → Bool} (he : ∀ s, e s = true → WindowBudget s) (l : List Win) (s : State)
    (hl : ∀ d ∈ s.arb.running, ∀ w, d.act = .window w → w ∈ l) : WindowBudget (revokeUntil e l s) := by
  induction l generalizing s with
  | nil => exact .inl (windowUnits_none fun d hd w hw => absurd (hl d hd w hw) (by simp))
  | cons w l ih =>
    unfold revokeUntil
    split
    · rename_i h
      exact he s h
    · refine ih _ fun d hd x hx => ?_
      rw [revokeWindow_running, List.mem_filter] at hd
      have hm := hl d hd.1 x hx
      rcases List.mem_cons.mp hm with h | h
      · simp [hx, h] at hd
      · exact h

theorem revokeForSupply_window (s : State) : WindowBudget (revokeForSupply s) := by
  refine revokeUntil_window (fun t ht => ?_) _ s fun d hd w hw => ?_
  · simp only [Bool.and_eq_true, decide_eq_true_eq] at ht
    exact .inr ht.2
  · simp only [State.youngestWindows, List.mem_reverse, List.mem_filterMap]
    exact ⟨d, hd, by rw [hw]⟩

/-- A new V_f (R2, R4, R23). -/
theorem applyVf_kept (v : Nat) (s : State) : Kept s (applyVf v s) := by
  unfold applyVf
  dsimp only
  generalize ht : s.withSupply { s.supply with vf := some v, band := nextBand s.supply.band v, budget := budgetOf v } = t
  have hc : Chain s t := by
    rw [← ht]
    refine (Chain.refl s).supply _ fun k => ?_
    exact ⟨k.1, Moves.budgetOf_le v⟩
  have hb : t.supply.budget = budgetOf v := by rw [← ht]; rfl
  have hw : s.supply.budget ≤ budgetOf v → WindowBudget s → WindowBudget t := by
    intro hle hs
    have e : t.windowUnits = s.windowUnits := by rw [← ht]; rfl
    unfold WindowBudget at *
    omega
  generalize hd : handBand s.supply.band (markSupply t) = d
  have hm : Moves t d := by
    rw [← hd]
    exact (Moves.refl t).markSupply.handBand _
  refine ⟨(hc.trans hm.chain).trans ((Moves.refl d).handBudget _).chain, fun hs => ?_⟩
  unfold handBudget
  have hdb : d.supply.budget = budgetOf v := hm.same.budget.trans hb
  split
  · rename_i he
    exact hm.window (hw (by omega) hs)
  · split
    · exact (Moves.refl _).scan.window (revokeForSupply_window d)
    · rename_i hn
      exact (Moves.refl _).scan.window (hm.window (hw (by omega) hs))

theorem listSample_kept (r : Nat) (s : State) : Kept s (listSample r s) := by
  unfold listSample
  extract_lets l src u
  have k : Kept s u := by
    refine ⟨(Chain.refl s).supply _ fun k => ?_, id⟩
    exact ⟨Moves.pushSample_length _ _, k.2⟩
  split
  · exact k.trans (applyVf_kept _ _)
  · exact k

theorem resetPart_kept (c : ResetCause) (s : State) : Kept s (resetPart c s) :=
  ⟨(Chain.refl s).reset _ _ _ _, fun _ => .inl rfl⟩

end Sys2Proof.Machine
end

