-- ==== Sys2Proof/Laws/MovesExec.lean ====
section
/-! SUPPORT. What every command can do: its outcome is a next state, reached by a chain of changes, and the queue is kept. -/

namespace Sys2Proof.Machine

/-- An outcome is a next state, reached by a chain that keeps the window budget. -/
def Runs (s : State) (o : Out) : Prop := ∃ u, o = .next u ∧ Kept s u

/-- An action that is a chain of moves. -/
def Acts (act : State → State) : Prop := ∀ u, Moves u (act u)

/-- An owner whose answer is reached by moves. -/
def Owned (f : Owner) : Prop := ∀ p l u, Moves u (f p l u).1

variable {s t : State} {act : State → State}

/-! ### The forms of a command -/

theorem finish_runs (k : Acts act) (h : Moves s t) : Runs s (finish act t) :=
  ⟨_, rfl, (Moves.ite h (h.trans (k t)).refreshPark).kept⟩

theorem onReport_runs (k : Acts act) (dt) (h : Moves s t) : Runs s (onReport dt act t) := finish_runs k (h.advance dt)

theorem onInput_runs (k : Acts act) (dt pin) (h : Moves s t) : Runs s (onInput dt pin act t) :=
  onReport_runs (fun u => .ite (.refl u) (k u)) dt (h.pins _)

theorem onMaskedInput_runs (k : Acts act) (dt b pin) (h : Moves s t) : Runs s (onMaskedInput dt b pin act t) := by
  refine onInput_runs (fun u => ?_) dt pin h
  have kw := (Moves.refl u).wake.trans (k (wake u))
  exact .ite (.ite kw (.refl u)) (k u)

theorem onTimer_runs (k : Acts act) (d) (h : Moves s t) : Runs s (onTimer d act t) := by
  cases d with
  | none => exact ⟨_, rfl, h.kept⟩
  | some x => exact ⟨_, rfl, ((h.reach x).trans (k _)).refreshPark.kept⟩

theorem endPulse_moves (k : Acts act) (p) (h : Moves s t) : Moves s (endPulse p act t) := by
  unfold endPulse
  exact .ite ((h.csRise p).trans (k _)) (.ite (h.csRise p) (((h.csFall p).refreshPark.csRise p).trans (k _)))

theorem onPulse_runs (k : Acts act) (dt p) (h : Moves s t) : Runs s (onPulse dt p act t) := by
  unfold onPulse
  dsimp only
  split
  · exact ⟨_, rfl, ((h.advance dt).pins _).kept⟩
  · exact ⟨_, rfl, (endPulse_moves k p (h.advance dt)).refreshPark.kept⟩

theorem dispatch_moves {o : Option Owner} (k : ∀ f, o = some f → Owned f) (p c l) (h : Moves s t) :
    Moves s (dispatch o p c l t).1 := by
  cases o with
  | none => exact h
  | some f => exact .ite_fst h (.ite_fst h (h.trans (k f rfl p l t)))

theorem takeFrame_moves {o : Option Owner} (k : ∀ f, o = some f → Owned f) (p c l) (h : Moves s t) :
    Moves s (takeFrame o p c l t) := by
  unfold takeFrame
  exact .ite (h.setSlot _ _ _) ((dispatch_moves k p c l (.ite h.restartStaleness h)).setSlot _ _ _)

theorem onRequest_runs {f : Owner} (k : Owned f) (dt p c l) (h : Moves s t) : Runs s (onRequest dt p c l f t) := by
  refine onPulse_runs (fun u => ?_) dt p h
  split
  · refine takeFrame_moves ?_ p c l (.refl u)
    rintro g ⟨⟩
    exact k
  · exact (Moves.refl u).takeError p

/-! ### The request table -/

theorem nopOwner_owned : Owned nopOwner := fun p l u => (Moves.refl u).nopOwner p l

theorem readStatusOwner_owned : Owned readStatusOwner := fun p l u => (Moves.refl u).readStatusOwner p l

theorem clearEventsOwner_owned : Owned clearEventsOwner := fun p l u => (Moves.refl u).clearEventsOwner p l

theorem setEventEnableOwner_owned : Owned setEventEnableOwner := fun p l u => (Moves.refl u).setEventEnableOwner p l

theorem setContextOwner_owned : Owned setContextOwner := fun p l u => (Moves.refl u).setContextOwner p l

theorem lockRequestOwner_owned : Owned lockRequestOwner := fun p l u => (Moves.refl u).lockRequestOwner p l

theorem childLockOwner_owned : Owned childLockOwner := fun p l u => (Moves.refl u).childLockOwner p l

theorem rearInhibitOwner_owned : Owned rearInhibitOwner := fun p l u => (Moves.refl u).rearInhibitOwner p l

theorem tailgateOwner_owned : Owned tailgateOwner := fun p l u => (Moves.refl u).tailgateOwner p l

theorem windowRequestOwner_owned : Owned windowRequestOwner := fun p l u => (Moves.refl u).windowRequestOwner p l

theorem normalizeOwner_owned : Owned normalizeOwner := fun p l u => (Moves.refl u).normalizeOwner p l

theorem telegramOwner_owned : Owned telegramOwner := fun p l u => (Moves.refl u).telegramOwner p l

theorem readSearchOwner_owned : Owned readSearchOwner := fun p l u => (Moves.refl u).readSearchOwner p l

theorem searchResultOwner_owned : Owned searchResultOwner := fun p l u => (Moves.refl u).searchResultOwner p l

theorem enrolOwner_owned : Owned enrolOwner := fun p l u => (Moves.refl u).enrolOwner p l

theorem setFobModeOwner_owned : Owned setFobModeOwner := fun p l u => (Moves.refl u).setFobModeOwner p l

theorem crashNoticeOwner_owned : Owned crashNoticeOwner := fun p l u => (Moves.refl u).crashNoticeOwner p l

theorem stageOwner_owned : Owned stageOwner := fun p l u => (Moves.refl u).stageOwner p l

theorem commitOwner_owned : Owned commitOwner := fun p l u => (Moves.refl u).commitOwner p l

theorem crashClearOwner_owned : Owned crashClearOwner := fun p l u => (Moves.refl u).crashClearOwner p l

theorem restartOwner_owned : Owned restartOwner := fun p l u => (Moves.refl u).restartOwner p l

theorem removeSlot_owned : Owned (slotOwner removeSlot) :=
  fun p l u => (Moves.refl u).slotOwner _ (fun j => (Moves.refl u).removeSlot j) p l

theorem suspendSlot_owned : Owned (slotOwner suspendSlot) :=
  fun p l u => (Moves.refl u).slotOwner _ (fun j => (Moves.refl u).suspendSlot j) p l

theorem reinstateSlot_owned : Owned (slotOwner reinstateSlot) :=
  fun p l u => (Moves.refl u).slotOwner _ (fun j => (Moves.refl u).reinstateSlot j) p l

theorem ownerOf_owned (c : Byte) (f : Owner) (h : ownerOf c = some f) : Owned f := by
  unfold ownerOf at h
  split at h <;> simp only [Option.some.injEq, reduceCtorEq] at h <;> subst h
  · exact nopOwner_owned
  · exact readStatusOwner_owned
  · exact clearEventsOwner_owned
  · exact setEventEnableOwner_owned
  · exact setContextOwner_owned
  · exact lockRequestOwner_owned
  · exact childLockOwner_owned
  · exact rearInhibitOwner_owned
  · exact tailgateOwner_owned
  · exact windowRequestOwner_owned
  · exact normalizeOwner_owned
  · exact telegramOwner_owned
  · exact readSearchOwner_owned
  · exact searchResultOwner_owned
  · exact enrolOwner_owned
  · exact removeSlot_owned
  · exact suspendSlot_owned
  · exact reinstateSlot_owned
  · exact setFobModeOwner_owned
  · exact crashNoticeOwner_owned
  · exact stageOwner_owned
  · exact commitOwner_owned
  · exact crashClearOwner_owned
  · exact restartOwner_owned

theorem takePulse_acts (p l) : Acts (takePulse p l) := by
  intro u
  unfold takePulse
  split
  · exact .refl u
  · exact (Moves.refl u).takeError p
  · exact takeFrame_moves (ownerOf_owned _) p _ _ (.refl u)

/-! ### The commands -/

theorem execPowerOnReset_runs (pins : Pins) (s : State) : Runs s (execPowerOnReset pins s) := by
  exact ⟨_, rfl, (Chain.refl s).reset _ _ _ _, fun _ => .inl rfl⟩

theorem execVbatSample_runs (raw : Nat) (s : State) : Runs s (execVbatSample raw s) := by
  unfold execVbatSample
  extract_lets v u
  have k : Moves s u := (Moves.refl s).reach _
  split
  · exact ⟨_, rfl, .ite (k.kept.trans (resetPart_kept _ _)) (k.sampleDue _).kept⟩
  · split
    · exact ⟨_, rfl, (k.kept.trans (resetPart_kept _ _)).moves ((Moves.refl _).sys _)⟩
    · exact ⟨_, rfl, ((k.sampleDue _).kept.trans (listSample_kept _ _)).moves (Moves.refl _).refreshPark⟩

theorem execSetContext_runs (dt : Time) (p : Port) (payload : List Byte) (s : State) : Runs s (execSetContext dt p payload s) := by
  exact onRequest_runs setContextOwner_owned _ _ _ _ (.refl s)

theorem execStalenessTimerExpiry_runs (s : State) : Runs s (execStalenessTimerExpiry s) := by
  refine onTimer_runs (fun u => ?_) _ (.refl s)
  simp (maxDischargeDepth := 40)

theorem execRetainedPowerExpiry_runs (s : State) : Runs s (execRetainedPowerExpiry s) := by
  refine onTimer_runs (fun u => ?_) _ (.refl s)
  simp (maxDischargeDepth := 40)

theorem execStageOvercurrent_runs (dt : Time) (a : Actuator) (s : State) : Runs s (execStageOvercurrent dt a s) := by
  refine onReport_runs (fun u => ?_) _ (.refl s)
  simp (maxDischargeDepth := 40)

theorem execStageStall_runs (dt : Time) (a : Actuator) (openLoad : Bool) (s : State) : Runs s (execStageStall dt a openLoad s) := by
  refine onReport_runs (fun u => ?_) _ (.refl s)
  simp (maxDischargeDepth := 40)

theorem execLockBrakeHoldEnd_runs (l : Latch) (s : State) : Runs s (execLockBrakeHoldEnd l s) := by
  refine onTimer_runs (fun u => ?_) _ (.refl s)
  simp (maxDischargeDepth := 40)

theorem execAjarChange_runs (dt : Time) (l : Latch) (v : Ajar) (s : State) : Runs s (execAjarChange dt l v s) := by
  refine onInput_runs (fun u => ?_) _ _ (.refl s)
  simp (maxDischargeDepth := 40)

theorem execLatchposChange_runs (dt : Time) (l : Latch) (v : LockPos) (s : State) : Runs s (execLatchposChange dt l v s) := by
  refine onInput_runs (fun u => ?_) _ _ (.refl s)
  simp (maxDischargeDepth := 40)

theorem execLockDriveTimeExpiry_runs (l : Latch) (openLoad : Bool) (s : State) : Runs s (execLockDriveTimeExpiry l openLoad s) := by
  refine onTimer_runs (fun u => ?_) _ (.refl s)
  simp (maxDischargeDepth := 40)

theorem execLockSettleEnd_runs (l : Latch) (s : State) : Runs s (execLockSettleEnd l s) := by
  refine onTimer_runs (fun u => ?_) _ (.refl s)
  simp (maxDischargeDepth := 40)

theorem execHeatCoolingExpiry_runs (l : Latch) (s : State) : Runs s (execHeatCoolingExpiry l s) := by
  refine onTimer_runs (fun u => ?_) _ (.refl s)
  simp (maxDischargeDepth := 40)

theorem execLockRequest_runs (dt : Time) (p : Port) (payload : List Byte) (s : State) : Runs s (execLockRequest dt p payload s) := by
  exact onRequest_runs lockRequestOwner_owned _ _ _ _ (.refl s)

theorem execCentralButtonPress_runs (dt : Time) (pressed : Bool) (s : State) : Runs s (execCentralButtonPress dt pressed s) := by
  refine onMaskedInput_runs (fun u => ?_) _ _ _ (.refl s)
  simp (maxDischargeDepth := 40)

theorem execKeyCylinderTurn_runs (dt : Time) (k : KeyDir) (active : Bool) (s : State) : Runs s (execKeyCylinderTurn dt k active s) := by
  refine onMaskedInput_runs (fun u => ?_) _ _ _ (.refl s)
  simp (maxDischargeDepth := 40)

theorem execKeyPressTimerExpiry_runs (s : State) : Runs s (execKeyPressTimerExpiry s) := by
  refine onTimer_runs (fun u => ?_) _ (.refl s)
  simp (maxDischargeDepth := 40)

theorem execFobPressTimerExpiry_runs (s : State) : Runs s (execFobPressTimerExpiry s) := by
  refine onTimer_runs (fun u => ?_) _ (.refl s)
  simp (maxDischargeDepth := 40)

theorem execAutoRelockExpiry_runs (s : State) : Runs s (execAutoRelockExpiry s) := by
  refine onTimer_runs (fun u => ?_) _ (.refl s)
  simp (maxDischargeDepth := 40)

theorem execTailgateRelease_runs (dt : Time) (p : Port) (payload : List Byte) (s : State) : Runs s (execTailgateRelease dt p payload s) := by
  exact onRequest_runs tailgateOwner_owned _ _ _ _ (.refl s)

theorem execReleasePulseEnd_runs (openLoad : Bool) (s : State) : Runs s (execReleasePulseEnd openLoad s) := by
  refine onTimer_runs (fun u => ?_) _ (.refl s)
  simp (maxDischargeDepth := 40)

theorem execReleaseWatchExpiry_runs (s : State) : Runs s (execReleaseWatchExpiry s) := by
  refine onTimer_runs (fun u => ?_) _ (.refl s)
  simp (maxDischargeDepth := 40)

theorem execChposChange_runs (dt : Time) (c : Side) (v : ChildPos) (s : State) : Runs s (execChposChange dt c v s) := by
  refine onInput_runs (fun u => ?_) _ _ (.refl s)
  simp (maxDischargeDepth := 40)

theorem execChildDriveTimeExpiry_runs (c : Side) (openLoad : Bool) (s : State) : Runs s (execChildDriveTimeExpiry c openLoad s) := by
  refine onTimer_runs (fun u => ?_) _ (.refl s)
  simp (maxDischargeDepth := 40)

theorem execChildSettleEnd_runs (c : Side) (s : State) : Runs s (execChildSettleEnd c s) := by
  refine onTimer_runs (fun u => ?_) _ (.refl s)
  simp (maxDischargeDepth := 40)

theorem execChildLock_runs (dt : Time) (p : Port) (payload : List Byte) (s : State) : Runs s (execChildLock dt p payload s) := by
  exact onRequest_runs childLockOwner_owned _ _ _ _ (.refl s)

theorem execChildButtonPress_runs (dt : Time) (pressed : Bool) (s : State) : Runs s (execChildButtonPress dt pressed s) := by
  refine onMaskedInput_runs (fun u => ?_) _ _ _ (.refl s)
  simp (maxDischargeDepth := 40)

theorem execWindowLockButtonPress_runs (dt : Time) (pressed : Bool) (s : State) : Runs s (execWindowLockButtonPress dt pressed s) := by
  refine onMaskedInput_runs (fun u => ?_) _ _ _ (.refl s)
  simp (maxDischargeDepth := 40)

theorem execRearInhibit_runs (dt : Time) (p : Port) (payload : List Byte) (s : State) : Runs s (execRearInhibit dt p payload s) := by
  exact onRequest_runs rearInhibitOwner_owned _ _ _ _ (.refl s)

theorem execHallEdge_runs (dt : Time) (w : Win) (sense : HallSense) (s : State) : Runs s (execHallEdge dt w sense s) := by
  refine onReport_runs (fun u => ?_) _ (.refl s)
  simp (maxDischargeDepth := 40)

theorem execNoPulseTest_runs (w : Win) (aboveStall : Bool) (s : State) : Runs s (execNoPulseTest w aboveStall s) := by
  refine onTimer_runs (fun u => ?_) _ (.refl s)
  simp (maxDischargeDepth := 40)

theorem execSwitchChannelChange_runs (dt : Time) (c : Chan) (reading : Ladder) (s : State) : Runs s (execSwitchChannelChange dt c reading s) := by
  refine onInput_runs (fun u => ?_) _ _ (.refl s)
  simp (maxDischargeDepth := 40)

theorem execWindowStall_runs (w : Win) (s : State) : Runs s (execWindowStall w s) := by
  refine onTimer_runs (fun u => ?_) _ (.refl s)
  simp (maxDischargeDepth := 40)

theorem execRunTimeout_runs (w : Win) (s : State) : Runs s (execRunTimeout w s) := by
  refine onTimer_runs (fun u => ?_) _ (.refl s)
  simp (maxDischargeDepth := 40)

theorem execWindowBrakeEnd_runs (w : Win) (s : State) : Runs s (execWindowBrakeEnd w s) := by
  refine onTimer_runs (fun u => ?_) _ (.refl s)
  simp (maxDischargeDepth := 40)

theorem execWindowRequest_runs (dt : Time) (p : Port) (payload : List Byte) (s : State) : Runs s (execWindowRequest dt p payload s) := by
  exact onRequest_runs windowRequestOwner_owned _ _ _ _ (.refl s)

theorem execNormalizeWindow_runs (dt : Time) (p : Port) (payload : List Byte) (s : State) : Runs s (execNormalizeWindow dt p payload s) := by
  exact onRequest_runs normalizeOwner_owned _ _ _ _ (.refl s)

theorem execAccessTelegram_runs (dt : Time) (p : Port) (payload : List Byte) (s : State) : Runs s (execAccessTelegram dt p payload s) := by
  exact onRequest_runs telegramOwner_owned _ _ _ _ (.refl s)

theorem execGapTimerExpiry_runs (s : State) : Runs s (execGapTimerExpiry s) := by
  refine onTimer_runs (fun u => ?_) _ (.refl s)
  simp (maxDischargeDepth := 40)

theorem execPassiveTrigger_runs (dt : Time) (t : Touch) (touched : Bool) (s : State) : Runs s (execPassiveTrigger dt t touched s) := by
  refine onMaskedInput_runs (fun u => ?_) _ _ _ (.refl s)
  simp (maxDischargeDepth := 40)

theorem execTgButtonPress_runs (dt : Time) (pressed : Bool) (s : State) : Runs s (execTgButtonPress dt pressed s) := by
  refine onMaskedInput_runs (fun u => ?_) _ _ _ (.refl s)
  simp (maxDischargeDepth := 40)

theorem execReadSearch_runs (dt : Time) (p : Port) (payload : List Byte) (s : State) : Runs s (execReadSearch dt p payload s) := by
  exact onRequest_runs readSearchOwner_owned _ _ _ _ (.refl s)

theorem execSearchResult_runs (dt : Time) (p : Port) (payload : List Byte) (s : State) : Runs s (execSearchResult dt p payload s) := by
  exact onRequest_runs searchResultOwner_owned _ _ _ _ (.refl s)

theorem execSearchTimeout_runs (s : State) : Runs s (execSearchTimeout s) := by
  refine onTimer_runs (fun u => ?_) _ (.refl s)
  simp (maxDischargeDepth := 40)

theorem execEnrolFob_runs (dt : Time) (p : Port) (payload : List Byte) (s : State) : Runs s (execEnrolFob dt p payload s) := by
  exact onRequest_runs enrolOwner_owned _ _ _ _ (.refl s)

theorem execRemoveFob_runs (dt : Time) (p : Port) (payload : List Byte) (s : State) : Runs s (execRemoveFob dt p payload s) := by
  exact onRequest_runs removeSlot_owned _ _ _ _ (.refl s)

theorem execSuspendFob_runs (dt : Time) (p : Port) (payload : List Byte) (s : State) : Runs s (execSuspendFob dt p payload s) := by
  exact onRequest_runs suspendSlot_owned _ _ _ _ (.refl s)

theorem execReinstateFob_runs (dt : Time) (p : Port) (payload : List Byte) (s : State) : Runs s (execReinstateFob dt p payload s) := by
  exact onRequest_runs reinstateSlot_owned _ _ _ _ (.refl s)

theorem execSetFobMode_runs (dt : Time) (p : Port) (payload : List Byte) (s : State) : Runs s (execSetFobMode dt p payload s) := by
  exact onRequest_runs setFobModeOwner_owned _ _ _ _ (.refl s)

theorem execCrashLineLowMeasured_runs (dt : Time) (s : State) : Runs s (execCrashLineLowMeasured dt s) := by
  refine onReport_runs (fun u => ?_) _ ((Moves.refl s).pins _)
  simp (maxDischargeDepth := 40)

theorem execCrashLineLowEnd_runs (dt : Time) (s : State) : Runs s (execCrashLineLowEnd dt s) := by
  refine onReport_runs (fun u => ?_) _ ((Moves.refl s).pins _)
  simp (maxDischargeDepth := 40)

theorem execCrashLineFault_runs (s : State) : Runs s (execCrashLineFault s) := by
  refine onTimer_runs (fun u => ?_) _ (.refl s)
  simp (maxDischargeDepth := 40)

theorem execCrashGapTimeout_runs (s : State) : Runs s (execCrashGapTimeout s) := by
  refine onTimer_runs (fun u => ?_) _ (.refl s)
  simp (maxDischargeDepth := 40)

theorem execCrashLineRecovery_runs (dt : Time) (s : State) : Runs s (execCrashLineRecovery dt s) := by
  refine onReport_runs (fun u => ?_) _ ((Moves.refl s).pins _)
  simp (maxDischargeDepth := 40)

theorem execCrashNotice_runs (dt : Time) (p : Port) (payload : List Byte) (s : State) : Runs s (execCrashNotice dt p payload s) := by
  exact onRequest_runs crashNoticeOwner_owned _ _ _ _ (.refl s)

theorem execCrashClear_runs (dt : Time) (p : Port) (payload : List Byte) (s : State) : Runs s (execCrashClear dt p payload s) := by
  exact onRequest_runs crashClearOwner_owned _ _ _ _ (.refl s)

theorem execPatternPhaseEnd_runs (s : State) : Runs s (execPatternPhaseEnd s) := by
  unfold execPatternPhaseEnd
  split
  · exact ⟨_, rfl, (Moves.refl s).kept⟩
  · exact onTimer_runs (fun u => (Moves.refl u).endPhase _) _ (.refl s)

theorem execRowProgramStart_runs (s : State) : Runs s (execRowProgramStart s) := by
  refine finish_runs (fun u => ?_) (.refl s)
  split
  · rename_i l rest hq
    exact .ite ((Moves.refl u).startProgram l rest hq) (.refl u)
  · exact .refl u

theorem execRowProgramEnd_runs (readback : Option PhysRow) (s : State) : Runs s (execRowProgramEnd readback s) := by
  unfold execRowProgramEnd
  split
  · exact ⟨_, rfl, (Moves.refl s).kept⟩
  · exact onTimer_runs (fun u => (Moves.refl u).endProgram _ _) _ (.refl s)

theorem execStartupScanEnd_runs (s : State) : Runs s (execStartupScanEnd s) := by
  refine onTimer_runs (fun u => ?_) _ (.refl s)
  simp (maxDischargeDepth := 40)

theorem execStageConfig_runs (dt : Time) (p : Port) (payload : List Byte) (s : State) : Runs s (execStageConfig dt p payload s) := by
  exact onRequest_runs stageOwner_owned _ _ _ _ (.refl s)

theorem execCommitConfig_runs (dt : Time) (p : Port) (payload : List Byte) (s : State) : Runs s (execCommitConfig dt p payload s) := by
  exact onRequest_runs commitOwner_owned _ _ _ _ (.refl s)

theorem execChipSelectFall_runs (dt : Time) (p : Port) (s : State) : Runs s (execChipSelectFall dt p s) := by
  unfold execChipSelectFall
  have k := (Moves.refl s).advance dt
  dsimp only
  split
  · exact ⟨_, rfl, (k.pins _).kept⟩
  · split
    · exact ⟨_, rfl, k.refreshPark.kept⟩
    · exact ⟨_, rfl, (k.csFall p).refreshPark.kept⟩

theorem execFrameError_runs (dt : Time) (p : Port) (sck : Option (List Bool)) (s : State) : Runs s (execFrameError dt p sck s) := by
  exact onPulse_runs (takePulse_acts p sck) dt p (.refl s)

theorem execFrameInStarting_runs (dt : Time) (p : Port) (sck : Option (List Bool)) (s : State) : Runs s (execFrameInStarting dt p sck s) := by
  exact onPulse_runs (takePulse_acts p sck) dt p (.refl s)

theorem execUnknownRequest_runs (dt : Time) (p : Port) (code : Byte) (payload : List Byte) (s : State) : Runs s (execUnknownRequest dt p code payload s) := by
  refine onPulse_runs (fun u => ?_) dt p (.refl s)
  split
  · exact takeFrame_moves (ownerOf_owned _) p _ _ (.refl u)
  · exact (Moves.refl u).takeError p

theorem execNop_runs (dt : Time) (p : Port) (payload : List Byte) (s : State) : Runs s (execNop dt p payload s) := by
  exact onRequest_runs nopOwner_owned _ _ _ _ (.refl s)

theorem execReadStatus_runs (dt : Time) (p : Port) (payload : List Byte) (s : State) : Runs s (execReadStatus dt p payload s) := by
  exact onRequest_runs readStatusOwner_owned _ _ _ _ (.refl s)

theorem execClearEvents_runs (dt : Time) (p : Port) (payload : List Byte) (s : State) : Runs s (execClearEvents dt p payload s) := by
  exact onRequest_runs clearEventsOwner_owned _ _ _ _ (.refl s)

theorem execSetEventEnable_runs (dt : Time) (p : Port) (payload : List Byte) (s : State) : Runs s (execSetEventEnable dt p payload s) := by
  exact onRequest_runs setEventEnableOwner_owned _ _ _ _ (.refl s)

theorem execRestart_runs (dt : Time) (p : Port) (payload : List Byte) (s : State) : Runs s (execRestart dt p payload s) := by
  exact onRequest_runs restartOwner_owned _ _ _ _ (.refl s)

theorem execRestartReset_runs (s : State) : Runs s (execRestartReset s) := by
  exact ⟨_, rfl, .ite (resetPart_kept _ _) (Moves.refl s).kept⟩

theorem execEventDelayExpiry_runs (p : Port) (s : State) : Runs s (execEventDelayExpiry p s) := by
  refine onTimer_runs (fun u => Moves.modEvents (.refl u) p _ fun _ k => ?_) _ (.refl s)
  exact k

theorem execStartingEnd_runs (s : State) : Runs s (execStartingEnd s) := by
  refine onTimer_runs (fun u => ?_) _ (.refl s)
  simp (maxDischargeDepth := 40)

theorem execParkIdleExpiry_runs (s : State) : Runs s (execParkIdleExpiry s) := by
  unfold execParkIdleExpiry
  split
  · exact onTimer_runs (fun u => (Moves.refl u).takeParkIdle) _ (.refl s)
  · exact ⟨_, rfl, (Moves.refl s).kept⟩

theorem execCrashLineGlitchEnd_runs (dt : Time) (s : State) : Runs s (execCrashLineGlitchEnd dt s) := by
  refine onReport_runs (fun u => ?_) dt ((Moves.refl s).pins _)
  dsimp only
  split
  · exact .ite ((Moves.refl u).crash _) (.refl u)
  · exact .refl u

/-- Every command has a next state, reached by a chain that keeps the window budget. -/
theorem exec_runs (c : Instr) (s : State) : Runs s (exec c s) := by
  cases c with
  | powerOnReset pins => exact execPowerOnReset_runs pins s
  | vbatSample raw => exact execVbatSample_runs raw s
  | setContext dt p payload => exact execSetContext_runs dt p payload s
  | stalenessTimerExpiry => exact execStalenessTimerExpiry_runs s
  | retainedPowerExpiry => exact execRetainedPowerExpiry_runs s
  | stageOvercurrent dt a => exact execStageOvercurrent_runs dt a s
  | stageStall dt a openLoad => exact execStageStall_runs dt a openLoad s
  | lockBrakeHoldEnd l => exact execLockBrakeHoldEnd_runs l s
  | ajarChange dt l v => exact execAjarChange_runs dt l v s
  | latchposChange dt l v => exact execLatchposChange_runs dt l v s
  | lockDriveTimeExpiry l openLoad => exact execLockDriveTimeExpiry_runs l openLoad s
  | lockSettleEnd l => exact execLockSettleEnd_runs l s
  | heatCoolingExpiry l => exact execHeatCoolingExpiry_runs l s
  | lockRequest dt p payload => exact execLockRequest_runs dt p payload s
  | centralButtonPress dt pressed => exact execCentralButtonPress_runs dt pressed s
  | keyCylinderTurn dt k active => exact execKeyCylinderTurn_runs dt k active s
  | keyPressTimerExpiry => exact execKeyPressTimerExpiry_runs s
  | fobPressTimerExpiry => exact execFobPressTimerExpiry_runs s
  | autoRelockExpiry => exact execAutoRelockExpiry_runs s
  | tailgateRelease dt p payload => exact execTailgateRelease_runs dt p payload s
  | releasePulseEnd openLoad => exact execReleasePulseEnd_runs openLoad s
  | releaseWatchExpiry => exact execReleaseWatchExpiry_runs s
  | chposChange dt c v => exact execChposChange_runs dt c v s
  | childDriveTimeExpiry c openLoad => exact execChildDriveTimeExpiry_runs c openLoad s
  | childSettleEnd c => exact execChildSettleEnd_runs c s
  | childLock dt p payload => exact execChildLock_runs dt p payload s
  | childButtonPress dt pressed => exact execChildButtonPress_runs dt pressed s
  | windowLockButtonPress dt pressed => exact execWindowLockButtonPress_runs dt pressed s
  | rearInhibit dt p payload => exact execRearInhibit_runs dt p payload s
  | hallEdge dt w sense => exact execHallEdge_runs dt w sense s
  | noPulseTest w aboveStall => exact execNoPulseTest_runs w aboveStall s
  | switchChannelChange dt c reading => exact execSwitchChannelChange_runs dt c reading s
  | windowStall w => exact execWindowStall_runs w s
  | runTimeout w => exact execRunTimeout_runs w s
  | windowBrakeEnd w => exact execWindowBrakeEnd_runs w s
  | windowRequest dt p payload => exact execWindowRequest_runs dt p payload s
  | normalizeWindow dt p payload => exact execNormalizeWindow_runs dt p payload s
  | accessTelegram dt p payload => exact execAccessTelegram_runs dt p payload s
  | gapTimerExpiry => exact execGapTimerExpiry_runs s
  | passiveTrigger dt t touched => exact execPassiveTrigger_runs dt t touched s
  | tgButtonPress dt pressed => exact execTgButtonPress_runs dt pressed s
  | readSearch dt p payload => exact execReadSearch_runs dt p payload s
  | searchResult dt p payload => exact execSearchResult_runs dt p payload s
  | searchTimeout => exact execSearchTimeout_runs s
  | enrolFob dt p payload => exact execEnrolFob_runs dt p payload s
  | removeFob dt p payload => exact execRemoveFob_runs dt p payload s
  | suspendFob dt p payload => exact execSuspendFob_runs dt p payload s
  | reinstateFob dt p payload => exact execReinstateFob_runs dt p payload s
  | setFobMode dt p payload => exact execSetFobMode_runs dt p payload s
  | crashLineLowMeasured dt => exact execCrashLineLowMeasured_runs dt s
  | crashLineLowEnd dt => exact execCrashLineLowEnd_runs dt s
  | crashLineFault => exact execCrashLineFault_runs s
  | crashGapTimeout => exact execCrashGapTimeout_runs s
  | crashLineRecovery dt => exact execCrashLineRecovery_runs dt s
  | crashNotice dt p payload => exact execCrashNotice_runs dt p payload s
  | crashClear dt p payload => exact execCrashClear_runs dt p payload s
  | patternPhaseEnd => exact execPatternPhaseEnd_runs s
  | rowProgramStart => exact execRowProgramStart_runs s
  | rowProgramEnd readback => exact execRowProgramEnd_runs readback s
  | startupScanEnd => exact execStartupScanEnd_runs s
  | stageConfig dt p payload => exact execStageConfig_runs dt p payload s
  | commitConfig dt p payload => exact execCommitConfig_runs dt p payload s
  | chipSelectFall dt p => exact execChipSelectFall_runs dt p s
  | frameError dt p bits => exact execFrameError_runs dt p bits s
  | frameInStarting dt p bits => exact execFrameInStarting_runs dt p bits s
  | unknownRequest dt p code payload => exact execUnknownRequest_runs dt p code payload s
  | nop dt p payload => exact execNop_runs dt p payload s
  | readStatus dt p payload => exact execReadStatus_runs dt p payload s
  | clearEvents dt p payload => exact execClearEvents_runs dt p payload s
  | setEventEnable dt p payload => exact execSetEventEnable_runs dt p payload s
  | restart dt p payload => exact execRestart_runs dt p payload s
  | restartReset => exact execRestartReset_runs s
  | eventDelayExpiry p => exact execEventDelayExpiry_runs p s
  | startingEnd => exact execStartingEnd_runs s
  | parkIdleExpiry => exact execParkIdleExpiry_runs s
  | crashLineGlitchEnd dt => exact execCrashLineGlitchEnd_runs dt s

/-- No command touches the queue. -/
theorem Chain.pending {s t : State} (h : Chain s t) : t.pending = s.pending := by
  induction h with
  | refl => rfl
  | reset _ _ _ _ _ ih => exact ih
  | _ => assumption

theorem exec_kept {c : Instr} {s t : State} (h : exec c s = .next t) : Kept s t := by
  obtain ⟨u, hu, k⟩ := exec_runs c s
  rw [hu] at h
  cases h
  exact k

end Sys2Proof.Machine
end

