-- ==== Sys2Proof/Laws/Reset.lean ====
section
/-! SUPPORT. Every block of the state right after a reset, and the invariants that hold there. -/

namespace Sys2Proof.Machine

variable (c : ResetCause) (n : Time) (q : List Instr) (pins : Pins) (a : Vector PhysRow 48)

@[simp] theorem afterReset_pending : (State.afterReset c n q pins a).pending =
    q := rfl

@[simp] theorem afterReset_now : (State.afterReset c n q pins a).now =
    n := rfl

@[simp] theorem afterReset_pins : (State.afterReset c n q pins a).pins =
    pins := rfl

@[simp] theorem afterReset_sys : (State.afterReset c n q pins a).sys =
    { mode := .starting, inReset := false, cause := c, restartPending := false, dside := .left,
      scanDue := some (n + msec 20), startDue := some (n + msec 30), park := .stopped } := rfl

@[simp] theorem afterReset_supply : (State.afterReset c n q pins a).supply =
    { samples := [], vf := none, band := .normal, budget := 0, sampleDue := n + msec 5 } := rfl

@[simp] theorem afterReset_ctx : (State.afterReset c n q pins a).ctx =
    { ignition := .off, speed := .standstill, fresh := true, staleDue := none, retainedDue := none } := rfl

@[simp] theorem afterReset_arb : (State.afterReset c n q pins a).arb =
    { queue := [], running := [], holds := [], seq := 0 } := rfl

@[simp] theorem afterReset_stages : (State.afterReset c n q pins a).stages =
    { locks := Doors.all .off, children := Sides.all .off, release := .off, windows := Wins.all .off } := rfl

@[simp] theorem afterReset_latches : (State.afterReset c n q pins a).latches =
    Doors.all LatchRec.reset := rfl

@[simp] theorem afterReset_release : (State.afterReset c n q pins a).release =
    { pulseDue := none, watchDue := none, last := .none } := rfl

@[simp] theorem afterReset_groups : (State.afterReset c n q pins a).groups =
    { entries := [], nextId := 1, last := Ports.all none } := rfl

@[simp] theorem afterReset_presses : (State.afterReset c n q pins a).presses =
    { key := none, fob := none, relockDue := none } := rfl

@[simp] theorem afterReset_child : (State.afterReset c n q pins a).child =
    { recs := Sides.all ChildRec.reset, rearInhibit := false, effective := Sides.all false } := rfl

@[simp] theorem afterReset_windows : (State.afterReset c n q pins a).windows =
    Wins.all WindowRec.reset := rfl

@[simp] theorem afterReset_profiles : (State.afterReset c n q pins a).profiles =
    Wins.all (Vector.replicate 32 0) := rfl

@[simp] theorem afterReset_chans : (State.afterReset c n q pins a).chans =
    Chans.all { position := .neutral, waiting := false } := rfl

@[simp] theorem afterReset_comfort : (State.afterReset c n q pins a).comfort =
    Wins.all false := rfl

@[simp] theorem afterReset_pinch : (State.afterReset c n q pins a).pinch =
    Wins.all { run := none, rev := RevRec.reset } := rfl

@[simp] theorem afterReset_fobs : (State.afterReset c n q pins a).fobs =
    Slots.all Fob.reset := rfl

@[simp] theorem afterReset_search : (State.afterReset c n q pins a).search =
    SearchRec.reset := rfl

@[simp] theorem afterReset_tracker : (State.afterReset c n q pins a).tracker =
    { held := none, eligible := false, holdTime := msec 1500 } := rfl

@[simp] theorem afterReset_crash : (State.afterReset c n q pins a).crash =
    { latched := false, severity := 0, line := if pins.crashLow then .fault else .idle, count := 0,
      lastRise := 0, lowStart := 0, watchedFrom := n, held := false } := rfl

@[simp] theorem afterReset_feedback : (State.afterReset c n q pins a).feedback =
    { queue := [], playing := none } := rfl

@[simp] theorem afterReset_store : (State.afterReset c n q pins a).store =
    Store.reset a := rfl

@[simp] theorem afterReset_ports : (State.afterReset c n q pins a).ports =
    Ports.all PortUnit.reset := rfl

@[simp] theorem afterReset_events : (State.afterReset c n q pins a).events =
    { body := EventRec.reset .body, radio := EventRec.reset .radio, restraint := EventRec.reset .restraint } := rfl

@[simp] theorem afterReset_ties : (State.afterReset c n q pins a).ties =
    0 := rfl

theorem eventReset_used (p : Port) : (EventRec.reset p).Used := by
  cases p <;> exact ⟨by decide, by decide⟩

theorem eventsUsed_afterReset : EventsUsed (State.afterReset c n q pins a) := by
  intro p
  cases p
  · exact eventReset_used .body
  · exact eventReset_used .radio
  · exact eventReset_used .restraint

theorem heatInRange_afterReset : HeatInRange (State.afterReset c n q pins a) := by
  intro l
  simp [LatchRec.reset]

theorem supplyInRange_afterReset : SupplyInRange (State.afterReset c n q pins a) := by
  simp [SupplyInRange]

theorem feedbackBounded_afterReset : FeedbackBounded (State.afterReset c n q pins a) := by
  simp [FeedbackBounded]

theorem storeQueueOnce_afterReset : StoreQueueOnce (State.afterReset c n q pins a) := by
  simp [StoreQueueOnce, Store.reset]

theorem fobReset_enrolled : Fob.reset.enrolled = false := rfl

theorem fobsDistinct_afterReset : FobsDistinct (State.afterReset c n q pins a).fobs := by
  intro j k hj
  simp [fobReset_enrolled] at hj

theorem ceilingAhead_afterReset : CeilingAhead (State.afterReset c n q pins a).fobs := by
  intro k hk
  simp [fobReset_enrolled] at hk

end Sys2Proof.Machine
end

