-- ==== Sys2Proof/Tests/Slice0.lean ====
section
/-! SUPPORT. The model's own tests: the well-formedness smoke, values of the spec written out, single steps, and for each
statement with hypotheses a state and operands that meet them. -/

namespace Sys2Proof.Tests

set_option Elab.async false

open Sys2Proof.Machine

/-! ### States for the tests -/

/-- The reset state with STARTING over. -/
def inRun : State :=
  State.reset.withSys { State.reset.sys with mode := .run, scanDue := none, startDue := none }

def inPark : State := inRun.withSys { inRun.sys with mode := .park }

def heldInReset : State := inRun.withSys { inRun.sys with mode := .starting, inReset := true }

/-- RUN with a frame being received on a port. -/
def rx (p : Port) : State := inRun.modPort p fun u => { u with receiving := true }

/-- STARTING with a frame being received on the body port. -/
def rxStarting : State := State.reset.modPort .body fun u => { u with receiving := true }

def withIgnition (s : State) (i : Ignition) (v : Speed) : State := s.withCtx { s.ctx with ignition := i, speed := v }

/-- A supply in NORMAL with a budget. -/
def powered (s : State) (b : Nat) : State :=
  s.withSupply { s.supply with samples := List.replicate 8 12000, vf := some 12000, band := .normal, budget := b }

def lockEntry (l : Latch) (d : Dir) : Entry :=
  { act := .lock l, dir := d, cls := .occupant, source := .bodyPort, seq := 0, waiting := [], mode := none
    holdReported := false }

def lockDrive (l : Latch) (d : Dir) : Drive :=
  { act := .lock l, dir := d, cls := .occupant, source := .bodyPort, seq := 0, waiting := [], mode := none }

def winEntry (w : Win) (d : Dir) : Entry :=
  { act := .window w, dir := d, cls := .access, source := .switchDriver, seq := 0, waiting := [], mode := some .manual
    holdReported := false }

def winDrive (w : Win) (d : Dir) : Drive :=
  { act := .window w, dir := d, cls := .access, source := .switchDriver, seq := 0, waiting := [], mode := some .manual }

def childDrive (c : Side) (d : Dir) : Drive :=
  { act := .child c, dir := d, cls := .occupant, source := .bodyPort, seq := 0, waiting := [], mode := none }

def queueing (s : State) (q : List Entry) : State := s.withArb { s.arb with queue := q }
def running (s : State) (q : List Drive) : State := s.withArb { s.arb with running := q }

/-- An ACTIVE slot. -/
def fob (ident counter : Word32) : Fob :=
  { Fob.reset with state := .active, ident := ident, counter := counter, ceiling := counter + 32 }

def withFob (s : State) (k : SlotId) (f : Fob) : State := s.modFob k fun _ => f

/-- A run record of an UP run. -/
def runRec (n count nconf : Nat) (absolute : Bool) : RunRec :=
  { n := n, s := some 1000, sStart := some 1000, count := count, pseal := 16, pdetect := 960, k := 38, nconf := nconf
    dist := 400, absolute := absolute, restricted := false, inRange := true, learn := false
    zones := Vector.replicate 32 (0, 0), edgeTime := 0 }

/-- Window w1 in an UP run with a run record and an edge period. -/
def upRun (r : RunRec) (norm : Norm) (p : Nat) (mode : WMode) : State :=
  let s := (powered inRun 12).modWindow .w1 fun x =>
    { x with run := .runUp, norm := norm, p := p, pmax := some 1000, mode := some mode, edges := 30, runDue := some 8000000 }
  (s.modPinch .w1 fun c => { c with run := some r }).setStage (.window .w1) (.drive .up)

/-- The edge of a run as the statement on Hall edges hands it to the pinch computer. -/
def handed (dt : Time) (w : Win) (e : HallSense) (d : Dir) (s : State) : State :=
  let r := s.windows.get w
  let p := r.countEdge e
  handEdge w e (p != r.p) (((passPulse w e ((advance dt s).modWindow w fun r => { r with p := p })).modWindow w
    fun r => { r with edges := r.edges + 1, lastEdge := s.now + dt
                      wrong := if (d = .up ∧ e = .closing) ∨ (d ≠ .up ∧ e = .opening) then 0 else r.wrong + 1 }))

/-- Two ACTIVE slots. -/
def twoFobs : State := withFob (withFob inRun .s0 (fob 7 100)) .s1 (fob 8 200)

/-! ### Well-formedness: each check refuses an ill-formed command -/

theorem test_wf_sample : (Instr.vbatSample 32767).wellFormed = true ∧ (Instr.vbatSample 32768).wellFormed = false := by
  decide

theorem test_wf_payload : (Instr.setContext 0 .body (List.replicate 14 0)).wellFormed = true
    ∧ (Instr.setContext 0 .body (List.replicate 15 0)).wellFormed = false
    ∧ (Instr.lockRequest 0 .body (List.replicate 15 0)).wellFormed = false
    ∧ (Instr.commitConfig 0 .body (List.replicate 15 0)).wellFormed = false
    ∧ (Instr.restart 0 .body (List.replicate 15 0)).wellFormed = false := by decide

theorem test_wf_frameError : (Instr.frameError 0 .body (some [true])).wellFormed = true
    ∧ (Instr.frameError 0 .body none).wellFormed = true
    ∧ (Instr.frameError 0 .body (some ((requestBytes 0 []).flatMap bitsOfByte))).wellFormed = false := by decide +kernel

theorem test_wf_unknownRequest : (Instr.unknownRequest 0 .body 0x04 []).wellFormed = true
    ∧ (Instr.unknownRequest 0 .body 0x10 []).wellFormed = false
    ∧ (Instr.unknownRequest 0 .body 0x04 (List.replicate 15 0)).wellFormed = false := by decide

/-! ### Values of the spec -/

/-- R183 worked out on 31h to 39h. -/
theorem test_crc8_check : crc8 [0x31, 0x32, 0x33, 0x34, 0x35, 0x36, 0x37, 0x38, 0x39] = 0x4B := by decide +kernel

theorem test_factory_fields : factoryImage.lockDriveTime = msec 250 ∧ factoryImage.retryCount = 2
    ∧ factoryImage.kFactor = 38 ∧ factoryImage.pdetect = 960 ∧ factoryImage.limited = factoryImage := by decide +kernel

theorem test_row_claimed : (rowBytes 34 0xFF (padBytes 13 [1, 2, 3])).claim = some (34, 0xFF, padBytes 13 [1, 2, 3]) := by
  decide +kernel

theorem test_newer_wraps : newer 0x00 0xFF = true ∧ newer 0xFF 0x00 = false ∧ newer 0x80 0x00 = false := by decide

/-! ### Hypotheses met: steps, resets and modes -/

theorem test_met_StepRunsFront : (inRun.withPending [.parkIdleExpiry, .restartReset]).pending =
    .parkIdleExpiry :: [.restartReset] := rfl

theorem test_met_NothingDue : inRun.pending = [] ∧ inRun.ctx.staleDue = none ∧ inRun.ctx.retainedDue = none
    ∧ (inRun.latches.get .fl).brakeDue = none ∧ (inRun.latches.get .tg).driveDue = none
    ∧ (inRun.latches.get .fr).settleDue = none ∧ (inRun.latches.get .rl).coolDue = none ∧ inRun.presses.key = none
    ∧ inRun.presses.fob = none ∧ inRun.presses.relockDue = none ∧ inRun.release.pulseDue = none
    ∧ inRun.release.watchDue = none ∧ (inRun.child.recs.get .left).driveDue = none
    ∧ (inRun.child.recs.get .right).settleDue = none ∧ (inRun.windows.get .w1).noPulseArmed = false
    ∧ (inRun.windows.get .w2).edges = 0 ∧ (inRun.windows.get .w3).runDue = none
    ∧ (inRun.windows.get .w4).brakeDue = none ∧ inRun.tracker.held = none ∧ inRun.search.due = none
    ∧ inRun.crash.line ≠ .low ∧ inRun.crash.count = 0 ∧ inRun.feedback.playing = none ∧ inRun.store.program = none
    ∧ inRun.sys.scanDue = none ∧ inRun.sys.startDue = none ∧ (inRun.events.get .body).delayDue = none := by
  decide +kernel

theorem test_met_NothingDue_stages : (∀ d, inRun.stages.get (.window .w1) ≠ .drive d)
    ∧ (∀ d, inRun.sys.park ≠ .running d) := ⟨(fun _ h => by cases h), (fun _ h => by cases h)⟩

def supplied (v : Nat) : State :=
  (inRun.withSupply { inRun.supply with vf := some v }).withStore { inRun.store with queue := [4, 5] }

def restarting : State := inRun.withSys { inRun.sys with restartPending := true }

def programming : State :=
  inRun.withStore { inRun.store with
    program := some { row := 4, content := padBytes 13 [1], generation := 1, target := 4, due := 5000 } }

theorem test_met_ResetsStart : inRun.store.program = none
    ∧ (restarting.sys.restartPending = true ∧ restarting.store.queue = [] ∧ restarting.store.program = none)
    ∧ inRun.sys.restartPending = false ∧ (supplied 8000).store.queue ≠ [] ∧ programming.store.program ≠ none
    ∧ inRun.sys.inReset = false ∧ (5999 : Nat) < 6000 ∧ heldInReset.sys.inReset = true ∧ (6500 : Nat) ≤ 6500
    ∧ programming.store.program = some { row := 4, content := padBytes 13 [1], generation := 1, target := 4, due := 5000 } := by
  decide +kernel

/-! ### The scan and the derivation -/

/-- STARTING with rows of the array programmed. -/
def stored (rows : List (PRow × PhysRow)) : State :=
  State.reset.withStore { State.reset.store with
    array := rows.foldl (fun a r => a.set r.1 r.2) (Vector.replicate 48 .unreadable) }

/-- Two claims on row 6, the older one on the home of row 5, and an even older one on spare 35. -/
def claimed : State :=
  stored [(4, rowBytes 4 9 (padBytes 13 [])), (5, rowBytes 6 3 (padBytes 13 [1])), (6, rowBytes 6 4 (padBytes 13 [2]))
          , (35, rowBytes 6 0x84 (padBytes 13 [3]))]

/-- The home of row 5 and every spare hold older claims on row 6. -/
def crowded : State :=
  stored ((6, rowBytes 6 1 (padBytes 13 [])) :: (5, rowBytes 6 0 (padBytes 13 []))
    :: (List.range 13).map fun n => (Fin.ofNat 48 (35 + n), rowBytes 6 0 (padBytes 13 [])))

/-- The factory image stored at home. -/
def configured : State :=
  stored ((List.range 4).map fun i => (Fin.ofNat 48 i, rowBytes (Fin.ofNat 35 i) 1 (factoryImage.part i)))

def wins (s : State) (l : LRow) : Option PRow := (winningClaim (claimsOf s.store.array) l).map (·.phys)

/-- A winner in use, losers retired, a lost row with a claimed home on the lowest FREE spare, RECORD_LOST. -/
theorem test_met_StartingEnds_scan :
    (let t := endScan claimed
     claimed.sys.mode = .starting ∧ wins claimed 4 = some 4 ∧ wins claimed 6 = some 6 ∧ wins claimed 5 = none
       ∧ t.store.shadows[(6 : LRow)].content = padBytes 13 [2] ∧ t.store.map[(6 : PRow)] = .inUse
       ∧ t.store.map[(5 : PRow)] = .retired ∧ t.store.map[(35 : PRow)] = .retired
       ∧ t.store.shadows[(5 : LRow)].current = 36 ∧ t.store.map[(36 : PRow)] = .inUse ∧ t.store.lost.length = 33
       ∧ wins claimed 7 = none ∧ t.store.shadows[(5 : LRow)].isVolatile = false
       ∧ t.store.shadows[(7 : LRow)].isVolatile = false
       ∧ (∀ x ∈ claimsOf claimed.store.array, x.phys ≠ 37)
       ∧ (∀ l : LRow, winningClaim (claimsOf claimed.store.array) l = none → t.store.shadows[l].current ≠ 37)
       ∧ (t.events.get .body).captured = Ev.recordLost.bit) := by decide +kernel

theorem test_met_StartingEnds_full :
    (wins crowded 6 = some 6 ∧ wins crowded 5 = none ∧ (endScan crowded).store.shadows[(5 : LRow)].isVolatile = true)
    ∧ ((List.range 4).map fun i => wins configured (Fin.ofNat 35 i)) = [some 0, some 1, some 2, some 3]
    ∧ (endScan configured).cfg = factoryImage := by decide +kernel

/-- STARTING after a scan: FL deadlocked, FR deadlocked before and now unlocked, W1 stored with its top known, W2's fourth
row lost, two slots of one identifier. -/
def started : State :=
  let slot (st : Byte) : Content := padBytes 13 [1, 2, 3, 4, 0, 0, 0, 9, st, 1, 1]
  let s := (((State.reset.setRow 4 (padBytes 13 [0, 0, 1, 3])).setRow 5 (slot 1)).setRow 6 (slot 2)).setRow 7 (slot 3)
  let s := s.setRow 11 (padBytes 13 [3, 0xE8, 1, 0, 200, 0, 199])
  (s.withStore { s.store with lost := [Win.w2.row 3] }).withPins
    { s.pins with latchpos := s.pins.latchpos.set .fl .locked, chpos := s.pins.chpos.set .left .engaged }

theorem test_met_StartingEnds_derive :
    (let t := deriveRecords started
     started.sys.mode = .starting
       ∧ (t.latches.get .fl).state = .deadlocked ∧ (t.latches.get .fr).state = .unlocked ∧ t.deadlockBits = 1
       ∧ (t.child.recs.get .left).state = .engaged ∧ t.childCopies = 1 ∧ t.child.rearInhibit = true
       ∧ (t.windows.get .w1).norm = .positionLost ∧ (t.windows.get .w1).pmax = some 1000
       ∧ (t.profiles.get .w1)[(0 : Fin 32)] = 200 ∧ (t.profiles.get .w1)[(1 : Fin 32)] = 0
       ∧ (t.windows.get .w2).norm = .unlearned
       ∧ (t.fobs.get .s0).state = .active ∧ (t.fobs.get .s0).counter = 9 ∧ (t.fobs.get .s0).ceiling = 41
       ∧ (t.fobs.get .s1).state = .invalid ∧ (t.fobs.get .s2).state = .invalid
       ∧ SlotId.s0.row ∈ t.store.queue ∧ SlotId.s1.row ∉ t.store.queue) := by decide +kernel

/-- STARTING with a locked latch, and the crash record as given. -/
def startingCrash (latched held : Bool) : State :=
  (State.reset.modLatch .fl fun r => { r with state := .locked, position := .locked }).withCrash
    { State.reset.crash with latched := latched, held := held }

theorem test_met_StartingEnds_crash :
    (startCrash (startingCrash true false)).arb.running.map (·.act) = [.lock .fl]
    ∧ (startCrash (startingCrash false false)).arb.running = []
    ∧ (startCrash (startingCrash false true)).crash.latched = true
    ∧ (startCrash (startingCrash false true)).crash.held = false := by decide +kernel

theorem test_met_StartingEnds : State.reset.sys.scanDue = some 20000
    ∧ ((State.reset.withSys { State.reset.sys with scanDue := none }).sys.startDue = some 30000
      ∧ (State.reset.withSys { State.reset.sys with scanDue := none }).sys.scanDue = none) := by decide +kernel

/-- The wake mask cleared. -/
def deafPark : State := inPark.setRow 1 ((inPark.row 1).set 2 0)

theorem test_met_InputsOutsideRun : InputChange heldInReset (.ajarChange · .fl .opened) none
      { heldInReset.pins with ajar := heldInReset.pins.ajar.set .fl .opened }
    ∧ heldInReset.sys.inReset = true
    ∧ InputChange State.reset (.centralButtonPress · true) (some 5) State.reset.pins ∧ State.reset.sys.inReset = false
    ∧ State.reset.sys.mode = .starting
    ∧ InputChange deafPark (.centralButtonPress · true) (some 5) deafPark.pins
    ∧ (deafPark.sys.inReset = false ∧ deafPark.sys.mode = .park)
    ∧ InputChange inPark (.windowLockButtonPress · true) (some 7) inPark.pins
    ∧ (inPark.sys.inReset = false ∧ inPark.sys.mode = .park) :=
  ⟨.ajar .fl .opened, rfl, .central true, rfl, rfl, .central true, ⟨rfl, rfl⟩, .windowLock true, rfl, rfl⟩

theorem test_met_InputsOutsideRun_masks : deafPark.cfg.wakeBit 5 = false ∧ inPark.cfg.wakeBit 7 = true
    ∧ (inPark.chans.get .localRR).position = .neutral ∧ SwitchPos.up ≠ .neutral
    ∧ inPark.sys.mode ≠ .starting ∧ inRun.sys.mode ≠ .starting := by
  decide +kernel

/-! ### Hypotheses met: the invariants, with steps that move what they speak of -/

theorem test_met_EventWordsKept : (∀ p : Port, (inRun.events.get p).Used)
    ∧ ∃ t, step (inRun.withPending [.frameError 0 .body (some [true])]) = .next t :=
  ⟨fun p => by cases p <;> constructor <;> decide, _, rfl⟩

theorem test_met_WindowBudgetKept :
    WindowBudget ((running (powered inRun 8) [winDrive .w1 .up]).withPending [.runTimeout .w1])
    ∧ (running (powered inRun 8) [winDrive .w1 .up]).windowUnits = 4
    ∧ ¬ WindowBudget (running (powered inRun 7) [winDrive .w1 .up]) := by decide +kernel

theorem test_met_FobTableKept : FobsDistinct twoFobs.fobs ∧ CeilingAhead twoFobs.fobs := by
  constructor
  · intro j k; cases j <;> cases k <;> decide
  · intro k; cases k <;> decide

theorem test_met_QueuesAndRangesKept : FeedbackBounded inRun ∧ StoreQueueOnce inRun ∧ SupplyInRange (powered inRun 20)
    ∧ (∀ l : Latch, (inRun.latches.get l).heat ≤ 20) :=
  ⟨by decide, by decide, by decide, fun l => by cases l <;> decide⟩

/-! ### Hypotheses met: supply and context -/

/-- Seven samples before the one that completes the list. -/
def seven (b : Band) (v : Nat) : State :=
  inRun.withSupply { inRun.supply with samples := List.replicate 7 v, band := b }

theorem test_met_SupplyFiltered : inRun.sys.inReset = false ∧ inRun.supply.samples.length < 7
    ∧ (seven .normal 6999).supply.samples.length = 7 ∧ (powered inRun 12).supply.samples.length = 8
    ∧ (∀ v ∈ [6000, 6999, 7000, 7500, 7501, 15999, 16000, 16500, 16501, 32767],
        ((List.replicate 7 v ++ [min v 32767]).drop 0).sum / 8 = v) := by decide +kernel

/-- The band after one more sample of `v` in the band `b`. -/
def bandAfter (b : Band) (v : Nat) : Option Band :=
  match exec (.vbatSample v) (seven b v) with
  | .next t => some t.supply.band
  | _ => none

theorem test_bands : [bandAfter .normal 6999, bandAfter .normal 7000, bandAfter .normal 16500, bandAfter .normal 16501,
      bandAfter .under 7500, bandAfter .under 7501, bandAfter .under 16501, bandAfter .over 16000, bandAfter .over 15999,
      bandAfter .over 6999]
    = [some .under, some .normal, some .normal, some .over, some .under, some .normal, some .over, some .over,
      some .normal, some .under] := by decide +kernel

/-- A body port frame with the ignition not OFF, one with it OFF, and one on another port. -/
theorem test_met_ContextWritten_taken : (withIgnition (rx .body) .run .moving).ctx.ignition ≠ .off
    ∧ (atOwner 7 .body (withIgnition (rx .body) .run .moving)).ctx.staleDue
      = some ((rx .body).now + 7 + 2000000)
    ∧ (rx .body).ctx.ignition = .off ∧ Port.radio ≠ .body := by decide +kernel

theorem test_met_ContextWritten : Receiving (rx .body) .body ∧ Admitted (rx .body) .body 1 ∧ ignitionOf 2 = some .run
    ∧ speedOf 1 = some .moving ∧ (rx .body).ctx.ignition = .off
    ∧ (withIgnition (rx .body) .run .moving).ctx.ignition ≠ .off ∧ ignitionOf 0 = some .off
    ∧ ignitionOf 3 = none ∧ speedOf 2 = none := by decide +kernel

theorem test_met_ContextTimersExpire : (inRun.withCtx { inRun.ctx with staleDue := some 5 }).ctx.staleDue = some 5
    ∧ (inRun.withCtx { inRun.ctx with retainedDue := some 6 }).ctx.retainedDue = some 6 := by decide

/-! ### Hypotheses met: the drive arbiter and the stages -/

/-- A request for a lock motor. -/
def ask (l : Latch) (d : Dir) (c : Cls) : Request :=
  { act := .lock l, dir := d, cls := c, source := .bodyPort, mode := none, group := some 3 }

def unlocking : Entry := { lockEntry .fl .unlock with cls := .crash }
def waitingFor (e : Entry) : State := queueing (powered inRun 1) [{ e with waiting := [2] }]
def locking : State := running (powered inRun 2) [{ lockDrive .fl .lock with waiting := [2] }]

theorem test_met_DrivesSubmitted :
    [{ lockEntry .fl .unlock with cls := .crash, seq := 9 }, lockEntry .fr .lock, { lockEntry .rl .lock with seq := 1 }].Pairwise
      (fun a b => entryBefore a b = true)
    ∧ inRun.drive? (.lock .fl) = none ∧ inRun.entry? (.lock .fl) = none
    ∧ (waitingFor (lockEntry .fl .lock)).entry? (.lock .fl) = some { lockEntry .fl .lock with waiting := [2] }
    ∧ (lockEntry .fl .lock).cls.rank ≤ (ask .fl .unlock .occupant).cls.rank
    ∧ (waitingFor unlocking).entry? (.lock .fl) = some { unlocking with waiting := [2] }
    ∧ (ask .fl .lock .occupant).cls.rank < unlocking.cls.rank
    ∧ (locking.drive? (.lock .fl)).map (·.dir) = some .lock ∧ (ask .fl .unlock .occupant).dir ≠ .lock
    ∧ (ask .fl .unlock .occupant).cls ≠ .crash ∧ (ask .fl .unlock .crash).cls = .crash := by decide +kernel

/-- Joined, replaced, overruled by a higher class, merged, and a preemption with its brake. -/
theorem test_submit : (submit (ask .fr .lock .comfort) inRun).2 = .queued
    ∧ (submit (ask .fl .unlock .occupant) (waitingFor (lockEntry .fl .lock))).2 = .queued
    ∧ (submit (ask .fl .lock .occupant) (waitingFor unlocking)).2 = .overruled
    ∧ ((submit (ask .fl .lock .comfort) locking).1.arb.running.map (·.waiting)) = [[2, 3]]
    ∧ (let x := submit (ask .fl .unlock .crash) locking
       x.2 = .queued ∧ x.1.arb.holds = [.lock .fl] ∧ x.1.stages.get (.lock .fl) = .brake
         ∧ (x.1.latches.get .fl).brakeDue = some 20000) := by decide +kernel

def hasUnder : State := inRun.withSupply { inRun.supply with band := .under }
def fitting : State := queueing (powered inRun 2) [lockEntry .fl .lock]
def starved : State := queueing (powered inRun 1) [lockEntry .fl .lock]
def blocked : State := queueing (running (powered inRun 2) [childDrive .left .engage]) [lockEntry .fl .lock]
def hotFl (s : State) : State := s.modLatch .fl fun r => { r with hot := true }
def inOver (s : State) : State := s.withSupply { s.supply with band := .over }

theorem test_met_ScanGrantsHead : hasUnder.supply.band = .under
    ∧ (fitting.supply.band = .normal ∧ fitting.arb.queue = lockEntry .fl .lock :: []
      ∧ fitting.busy (lockEntry .fl .lock) = false ∧ fitting.hotHeld (lockEntry .fl .lock) = false
      ∧ fitting.fits (lockEntry .fl .lock) = true)
    ∧ (starved.busy (lockEntry .fl .lock) = false ∧ starved.fits (lockEntry .fl .lock) = false
      ∧ (lockEntry .fl .lock).cls ≠ .crash ∧ actIsWindow (lockEntry .fl .lock).act = false ∧ starved.arb.running = [])
    ∧ (blocked.busy (lockEntry .fl .lock) = false ∧ blocked.hotHeld (lockEntry .fl .lock) = false
      ∧ blocked.fits (lockEntry .fl .lock) = false ∧ blocked.arb.running ≠ []) := by decide +kernel

theorem test_met_ScanGrantsHead_walk : locking.busy (lockEntry .fl .unlock) = true
    ∧ (hotFl fitting).busy (lockEntry .fl .lock) = false ∧ (hotFl fitting).hotHeld (lockEntry .fl .lock) = true
    ∧ (lockEntry .fl .lock).holdReported = false ∧ ({ lockEntry .fl .lock with holdReported := true }).holdReported = true
    ∧ (inOver fitting).supply.band = .over ∧ (inOver fitting).busy (winEntry .w1 .up) = false
    ∧ (inOver fitting).hotHeld (winEntry .w1 .up) = false ∧ actIsWindow (winEntry .w1 .up).act = true
    ∧ (inOver fitting).fits (lockEntry .fl .lock) = true := by decide +kernel

/-- In NORMAL and in OVER: an entry that fits, one granted because nothing runs, and one that ends the walk. -/
theorem test_met_ScanGrantsHead_eligible : ∀ f ∈ [id, inOver],
    (f fitting).supply.band ≠ .under ∧ (f fitting).busy (lockEntry .fl .lock) = false
      ∧ (f fitting).hotHeld (lockEntry .fl .lock) = false ∧ actIsWindow (lockEntry .fl .lock).act = false
      ∧ (f fitting).fits (lockEntry .fl .lock) = true
      ∧ (f starved).busy (lockEntry .fl .lock) = false ∧ (f starved).fits (lockEntry .fl .lock) = false
      ∧ (f starved).arb.running = [] ∧ (f blocked).busy (lockEntry .fl .lock) = false
      ∧ (f blocked).fits (lockEntry .fl .lock) = false ∧ (f blocked).arb.running ≠ []
      ∧ (lockEntry .fl .lock).cls ≠ .crash := by decide +kernel

/-- A window running, with a budget. -/
def oneWindow (b : Nat) : State := running (powered inRun b) [winDrive .w1 .up]

/-- A class-4 entry that does not fit: a revocation makes it fit, or leaves nothing running, or finds no window. -/
theorem test_met_ScanGrantsHead_crash : unlocking.cls = .crash
    ∧ (∀ b ∈ [1, 5], (oneWindow b).busy unlocking = false ∧ (oneWindow b).fits unlocking = false)
    ∧ ((walk [unlocking] (oneWindow 5)).arb.running.map (·.act), (walk [unlocking] (oneWindow 1)).arb.running.map (·.act)
        , (walk [unlocking] (running (powered inRun 3) [childDrive .left .engage, lockDrive .fr .lock])).arb.running.length)
      = ([.lock .fl], [.lock .fl], 2)
    ∧ (revokeUntil (fun t => t.fits unlocking) [.w1] (oneWindow 5)).fits unlocking = true
    ∧ (revokeUntil (fun t => t.fits unlocking) [.w1] (oneWindow 1)).fits unlocking = false := by decide +kernel

theorem test_met_WindowsRevoked : (seven .normal 6999).supply.samples.length = 7 ∧ inRun.sys.mode = .run
    ∧ hasUnder.supply.band ≠ .normal ∧ inRun.supply.band = .normal ∧ inRun.supply.budget < 1
    ∧ (oneWindow 7).arb.running = [] ++ [winDrive .w1 .up] ∧ locking.arb.running = [] ++ [{ lockDrive .fl .lock with waiting := [2] }]
    ∧ ((revokeWindow .w1 (oneWindow 7)).held (.window .w1)) = true := by decide +kernel

/-- B falls to 7 and to 8 with one window running, whose 4 units need B = 8; two windows need 12, the younger one goes. -/
theorem test_revocations :
    ((handBudget 12 (oneWindow 7)).arb.running.length, (handBudget 12 (oneWindow 8)).arb.running.length
      , (handBudget 20 (running (powered inRun 11) [winDrive .w1 .up, winDrive .w2 .down])).arb.running.map (·.act)
      , ((handBand .normal ((oneWindow 12).withSupply { (oneWindow 12).supply with band := .under })).windows.get .w1).pending)
    = (0, 1, [.window .w1], some .revoked) := by decide +kernel

def staged (a : Actuator) (x : Stage) : State := inRun.setStage a x

/-- A window bridge in DRIVE, with the 80 ms of the soft start and two ordered moments of it, and one that is OFF. -/
theorem test_met_ScanGrantsHead_duty : (staged (.window .w1) (.drive .up)).stages.get (.window .w1) = .drive .up
    ∧ msec 80 ≤ (80000 : Time) ∧ ¬ msec 80 ≤ (79999 : Time) ∧ (79999 : Time) ≤ 80000
    ∧ ∀ d, inRun.stages.get (.window .w1) ≠ .drive d := by
  refine ⟨by decide +kernel, by decide, by decide, by decide, fun d => ?_⟩
  cases d <;> decide +kernel

theorem test_met_OvercurrentEndsDrives : inRun.sys.inReset = false
    ∧ (staged (.lock .fl) (.drive .lock)).stages.get (.lock .fl) = .drive .lock
    ∧ (staged (.lock .tg) .brake).stages.get (.lock .tg) = .brake
    ∧ (staged (.child .left) (.drive .engage)).stages.get (.child .left) = .drive .engage
    ∧ (staged .release (.drive .release)).stages.get .release = .drive .release
    ∧ (staged (.window .w2) .brake).stages.get (.window .w2) ≠ .off
    ∧ inRun.stages.get (.window .w2) = .off := by decide

/-! ### Hypotheses met: latches -/

def settling (open? : Bool) (pos : LockPos) (attempts : Nat) : State :=
  (running inRun [lockDrive .fl .lock]).modLatch .fl fun r =>
    { r with settleDue := some 40, openLoad := open?, position := pos, attempts := attempts, retries := 2 }

theorem test_met_LockDriveRuns : (inRun.modLatch .fl fun r => { r with driveDue := some 250 }).latches.fl.driveDue = some 250
    ∧ ((settling false .locked 0).latches.get .fl).settleDue = some 40
    ∧ (settling false .locked 0).drive? (.lock .fl) = some (lockDrive .fl .lock)
    ∧ ((settling true .unlocked 0).latches.get .fl).openLoad = true
    ∧ ((settling false .unlocked 1).latches.get .fl).attempts < ((settling false .unlocked 1).latches.get .fl).retries
    ∧ ¬ ((settling false .unlocked 2).latches.get .fl).attempts < ((settling false .unlocked 2).latches.get .fl).retries
    ∧ ((inRun.modLatch .fl fun r => { r with settleDue := some 40 }).latches.get .fl).settleDue = some 40
    ∧ (inRun.modLatch .fl fun r => { r with settleDue := some 40 }).drive? (.lock .fl) = none
    ∧ ((inRun.modLatch .fl fun r => { r with brakeDue := some 20 }).latches.get .fl).brakeDue = some 20
    ∧ inRun.stages.get (.lock .rr) = .off := by decide +kernel

/-- The deadlock bit of RR is bit 3; TG has none, and a bit that does not change is not written. -/
theorem test_met_LockDriveRuns_state : (Latch.rr, 3) ∈ [(Latch.fl, 0), (.fr, 1), (.rl, 2), (.rr, 3)]
    ∧ inRun.deadlockBits.getLsbD 3 = (LatchState.locked == .deadlocked)
    ∧ inRun.deadlockBits.getLsbD 3 ≠ (LatchState.deadlocked == .deadlocked)
    ∧ [Latch.rr, .tg].map (fun l => (setLatchState l .deadlocked inRun).deadlockBits) = [8, 0]
    ∧ (setLatchState .rr .locked inRun).store.queue = [] ∧ (setLatchState .rr .deadlocked inRun).store.queue = [4] := by
  decide +kernel

theorem test_met_DoorInputsTaken : Awake inRun ∧ (inRun.latches.get .tg).ajar ≠ .opened
    ∧ (inRun.latches.get .tg).ajar = .closed ∧ (inRun.latches.get .fl).position ≠ .locked
    ∧ ((running inRun [lockDrive .fl .lock]).drive? (.lock .fl)).isSome = true ∧ inRun.drive? (.lock .fl) = none
    ∧ ((inRun.latches.get .fl).state, LockPos.locked, LatchState.locked) ∈
        [(LatchState.unlocked, LockPos.locked, LatchState.locked), (.locked, .unlocked, .unlocked),
         (.deadlocked, .unlocked, .unlocked)] := by decide

theorem test_met_DoorInputsTaken_manual : ∀ st ∈ [LatchState.locked, .deadlocked],
    let s := inRun.modLatch .rr fun r => { r with state := st, position := .locked }
    (s.latches.get .rr).position ≠ .unlocked ∧ s.drive? (.lock .rr) = none
      ∧ ((s.latches.get .rr).state, LockPos.unlocked, LatchState.unlocked) ∈
        [(LatchState.unlocked, LockPos.locked, LatchState.locked), (.locked, .unlocked, .unlocked),
         (.deadlocked, .unlocked, .unlocked)] := by decide

theorem test_met_HeatCounted : ((inRun.modLatch .fl fun r => { r with heat := 9, hot := true, coolDue := some 5 }).latches.get
      .fl).coolDue = some 5
    ∧ 11 ≤ ((inRun.modLatch .fl fun r => { r with heat := 11 }).latches.get .fl).heat
    ∧ ((inRun.modLatch .fl fun r => { r with heat := 10 }).latches.get .fl).heat < 11
    ∧ ((inRun.modLatch .fl fun r => { r with heat := 10 }).latches.get .fl).heat ≠ 0
    ∧ (inRun.latches.get .fl).heat = 0 ∧ Latch.fr ≠ .fl := by decide

/-- Heat at its bounds: 11 becomes 12 and HOT, 20 stays 20; 9 cools to 8 and HOT falls. -/
theorem test_heat_bounds :
    ((energizeLock .fl .lock (inRun.modLatch .fl fun r => { r with heat := 11 })).latches.fl.hot = true)
    ∧ ((energizeLock .fl .lock (inRun.modLatch .fl fun r => { r with heat := 20 })).latches.fl.heat = 20)
    ∧ ((coolLatch .fl (inRun.modLatch .fl fun r => { r with heat := 9, hot := true })).latches.fl.hot = false) := by
  decide +kernel

theorem test_met_LockRequested : Receiving (rx .body) .body ∧ Admitted (rx .body) .body 2
    ∧ (rx .body).lockTable 0 2 = some (.deadlockAll, Latch.sides.map .lock) ∧ originClass 1 = some .occupant
    ∧ patternOf 7 = some (some 7) ∧ patternOf 0xFF = some none
    ∧ (rx .body).lockTable 6 2 = none ∧ originClass 2 = none ∧ patternOf 8 = none := by decide +kernel

def crashed : State := inRun.withCrash { inRun.crash with latched := true }
def deadlockOff : State := inRun.setRow 0 ((inRun.row 0).set 1 0x3E)
def someGroup (n : Nat) : Group :=
  { id := n, source := .bodyPort, port := none, cls := .occupant, action := .lockAll, members := [], outstanding := []
    failed := [], overruled := [], pattern := none }
def fullTable : State := inRun.withGroups { inRun.groups with entries := (List.range 6).map someGroup }
def op (a : Action) : Operation :=
  { source := .bodyPort, port := none, cls := .occupant, action := a, members := Latch.list.map .lock, pattern := none }

def ajarAt (l : Latch) (s : State) : State := s.modLatch l fun r => { r with ajar := .opened }

theorem test_met_LockRefusals : crashed.crash.latched = true ∧ (op .lockAll).action.dir ≠ .unlock
    ∧ (op .deadlockAll).action.dir = .deadlock ∧ (op .lockAll).action.dir = .lock ∧ (op .unlockAll).action.dir = .unlock
    ∧ inRun.crash.latched = false ∧ ((ajarAt .fl inRun).latches.get (ajarAt .fl inRun).driverLatch).ajar = .opened
    ∧ (inRun.latches.get inRun.driverLatch).ajar = .closed
    ∧ deadlockOff.cfg.deadlockEnable = false ∧ inRun.cfg.deadlockEnable = true
    ∧ (withIgnition inRun .acc .standstill).ctx.ignition ≠ .off ∧ inRun.ctx.ignition = .off
    ∧ (inRun.withCtx { inRun.ctx with fresh := false }).ctx.fresh = false ∧ inRun.ctx.fresh = true
    ∧ (withIgnition inRun .off .moving).ctx.speed = .moving ∧ inRun.ctx.speed = .standstill
    ∧ ((ajarAt .tg inRun).latches.get .tg).ajar = .opened ∧ (∀ l ∈ Latch.list, (inRun.latches.get l).ajar = .closed)
    ∧ fullTable.groups.entries.length = 6 := by decide +kernel

/-- The answers in the order of the checks. -/
theorem test_refusals :
    [(lockOperation (op .lockAll) true (ajarAt .fl crashed)).2.1, (lockOperation (op .lockAll) true (ajarAt .fl inRun)).2.1
      , (lockOperation (op .deadlockAll) false (ajarAt .tg deadlockOff)).2.1
      , (lockOperation (op .deadlockAll) false (ajarAt .tg (withIgnition inRun .acc .moving))).2.1
      , (lockOperation (op .deadlockAll) false (ajarAt .tg (withIgnition inRun .off .moving))).2.1
      , (lockOperation (op .deadlockAll) false (ajarAt .tg inRun)).2.1
      , (lockOperation (op .deadlockAll) false fullTable).2.1, (lockOperation (op .lockAll) false fullTable).2.1
      , (lockOperation (op .unlockAll) false fullTable).2.1, (lockOperation (op .lockAll) false inRun).2.1]
    = [.crashActive, .doorOpen, .disabled, .ignitionState, .moving, .doorOpen, .busy, .busy, .busy, .queued] := by
  decide +kernel

/-- A group with what is left outstanding. -/
def grouped (out failed : List Actuator) : State :=
  inRun.withGroups { inRun.groups with
    entries := [{ someGroup 1 with port := some .body, cls := .access, action := .unlockAll, members := Latch.list.map .lock
                                   outstanding := out, failed := failed, pattern := some 1 }] }

def overruledAll : State := queueing (powered inRun 1) (Latch.list.map fun l => { lockEntry l .unlock with cls := .crash })

theorem test_met_GroupsSettled : inRun.groups.entries.length ≤ 6 ∧ 1 ≤ inRun.groups.nextId ∧ inRun.groups.nextId ≤ 255
    ∧ (runGroup (op .lockAll) inRun).2.1 = .queued ∧ (runGroup (op .unlockAll) inRun).2.1 = .ok
    ∧ (runGroup (op .lockAll) overruledAll).2.1 = .overruled
    ∧ inRun.stateIsTarget .unlock (.lock .fl) = true ∧ inRun.entry? (.lock .fl) = none
    ∧ ((grouped [.lock .fl] []).group? 1).map (·.outstanding) = some [.lock .fl]
    ∧ ((grouped [] []).group? 1).map (·.outstanding) = some [] ∧ inRun.group? 1 = none
    ∧ inRun.drive? (.lock .fl) = none ∧ locking.drive? (.lock .fl) = some { lockDrive .fl .lock with waiting := [2] }
    ∧ inRun.groups.entries.length < 6 ∧ 6 ≤ fullTable.groups.entries.length := by decide +kernel

/-- A completed class-2 unlock arms auto-relock, a failed one does not and asks for pattern 4. -/
theorem test_completion :
    (let t := testCompletion 1 (grouped [] [])
     t.presses.relockDue.isSome = true ∧ t.feedback.queue = [1] ∧ (t.groups.last.get .body).isSome = true
       ∧ t.groups.entries = [] ∧ (t.events.get .body).captured = Ev.lockChanged.bit)
    ∧ (let t := testCompletion 1 (grouped [] [.lock .fl])
       t.presses.relockDue = none ∧ t.feedback.queue = [4] ∧ (t.events.get .body).captured = Ev.lockFault.bit) := by
  decide +kernel

def keyed (k : KeyDir) : State := inRun.withPresses { inRun.presses with key := some { armed := k, due := 3000000 } }

theorem test_met_CentralAndKeyPressed : Awake inRun ∧ inRun.pins.keyLock = false ∧ inRun.pins.keyUnlock = false
    ∧ (keyed .lock).presses.key.any (·.armed == .lock) = true ∧ inRun.presses.key.any (·.armed == .lock) = false
    ∧ (inRun.withPins { inRun.pins with keyUnlock := true }).pins.keyUnlock = true := by decide

/-- The side doors LOCKED give UNLOCK_ALL, and LOCK_ALL while the LOCK drive of one of them still runs (R44). -/
theorem test_central : (let s := inRun.withLatches (Doors.all { LatchRec.reset with state := .locked })
      [s, running s [lockDrive .rr .lock], running s [lockDrive .rr .unlock], running s [lockDrive .tg .lock]].map
        (·.sidesLocked)) = [true, false, true, true] := by decide +kernel

def holding (comfort : Bool) : State :=
  inRun.withTracker { held := some { slot := .s0, button := .lock, comfort := comfort, gapDue := 300000 }
                      eligible := true, holdTime := 0 }

theorem test_met_RecordTimersExpire : (keyed .unlock).presses.key = some { armed := .unlock, due := 3000000 }
    ∧ (inRun.withPresses { inRun.presses with fob := some { slot := .s1, button := .lock, due := 9 } }).presses.fob =
        some { slot := .s1, button := .lock, due := 9 }
    ∧ (holding false).tracker.held = some { slot := .s0, button := .lock, comfort := false, gapDue := 300000 }
    ∧ (holding true).tracker.held = some { slot := .s0, button := .lock, comfort := true, gapDue := 300000 }
    ∧ (inRun.withPresses { inRun.presses with relockDue := some 45000000 }).presses.relockDue = some 45000000 := by decide

theorem test_met_TailgateReleased : Receiving (rx .body) .body ∧ Admitted (rx .body) .body 2
    ∧ (withIgnition (rx .body) .run .moving).effSpeed = .moving ∧ (rx .body).effSpeed = .standstill
    ∧ (inRun.withRelease { inRun.release with pulseDue := some 400000 }).release.pulseDue = some 400000
    ∧ (inRun.withRelease { inRun.release with watchDue := some 1000000 }).release.watchDue = some 1000000 := by
  decide +kernel

/-! ### Hypotheses met: child locks and rear inhibit -/

def childSettling : State :=
  (running inRun [childDrive .left .engage]).modChild .left fun r => { r with settleDue := some 40, driveDue := some 120 }

theorem test_met_ChildDrivesRun : (childSettling.child.recs.get .left).driveDue = some 120
    ∧ (staged (.child .left) (.drive .engage)).stages.get (.child .left) = .drive .engage
    ∧ (childSettling.child.recs.get .left).settleDue = some 40
    ∧ childSettling.drive? (.child .left) = some (childDrive .left .engage)
    ∧ Awake inRun ∧ (inRun.child.recs.get .right).position ≠ .engaged ∧ (childSettling.drive? (.child .left)).isSome = true
    ∧ (inRun.child.recs.get .right).state ≠ .engaged ∧ inRun.drive? (.child .right) = none := by decide +kernel

theorem test_met_ChildDrivesRun_state : (inRun.child.recs.get .right).state ≠ .engaged
    ∧ (inRun.child.recs.get .right).state = .disengaged ∧ (setChildState .right .engaged inRun).childCopies = 2
    ∧ (setChildState .right .engaged inRun).child.effective.get .right = true
    ∧ (failChild .left .short childSettling).arb.running = []
    ∧ ((failChild .left .short childSettling).child.recs.get .left).fault = .short := by decide +kernel

theorem test_met_ChildLocksRequested : Receiving (rx .body) .body ∧ Admitted (rx .body) .body 2
    ∧ sidesOf 2 = some [.left, .right] ∧ (rx .body).toggle [.left] = .childEngage ∧ crashed.crash.latched = true
    ∧ (rx .body).groups.entries.length < 6 ∧ ¬ fullTable.groups.entries.length < 6 := by decide +kernel

/-- A running drive decides the intended state, and one of each resolves to ENGAGE (R59). -/
theorem test_met_ChildLocksRequested_toggle :
    (let s := running inRun [childDrive .left .engage]
     s.entry? (.child .left) = none ∧ s.drive? (.child .left) = some (childDrive .left .engage)
       ∧ s.entry? (.child .right) = none ∧ s.drive? (.child .right) = none
       ∧ s.toggle [.left] = .childDisengage ∧ s.toggle [.right] = .childEngage ∧ s.toggle [.left, .right] = .childEngage)
    ∧ (let e : Entry := { act := .child .right, dir := .disengage, cls := .occupant, source := .bodyPort, seq := 0
                          waiting := [], mode := none, holdReported := false }
       let s := queueing (running inRun [childDrive .right .engage]) [e]
       s.entry? (.child .right) = some e ∧ s.intended .right = .disengaged)
    ∧ 2 < (3 : Byte).toNat := by decide +kernel

theorem test_met_RearInhibitSet : Awake inRun ∧ Receiving (rx .body) .body ∧ Admitted (rx .body) .body 2
    ∧ (rx .body).child.rearInhibit ≠ true ∧ (rx .body).child.rearInhibit = false := by decide +kernel

/-- W3 moving for its local switch. -/
def localMove (m : WMode) : State := inRun.modWindow .w3 fun r =>
  { r with run := .runUp, mode := some m, source := some .switchLocal, cls := some .access }

theorem test_met_RearInhibitSet_handed : inRun.child.effective.get .left = (inRun.child.rearInhibit ||
      (inRun.cfg.childLink && (inRun.child.recs.get .left).state == .engaged))
    ∧ (let s := inRun.modChild .left fun r => { r with state := .engaged }
       s.child.effective.get .left ≠ (s.child.rearInhibit || (s.cfg.childLink && (s.child.recs.get .left).state == .engaged)))
    ∧ ((localMove .manual).windows.get .w3).source = some .switchLocal ∧ (inRun.windows.get .w4).source ≠ some .switchLocal
    ∧ ((localMove .manual).windows.get .w3).mode = some .manual ∧ ((localMove .auto).windows.get .w3).mode ≠ some .manual
    ∧ ((inRun.modChan .localRR fun r => { r with position := .up }).chans.get .localRR).position ≠ .neutral
    ∧ (inRun.chans.get .localRL).position = .neutral
    ∧ [WMode.manual, .auto].map (fun m => ((takeInhibit .left true (localMove m)).windows.get .w3).pending)
        = [some .released, some .stopRequest] := by decide +kernel

/-! ### Hypotheses met: windows and pinch protection -/

/-- An UP run at position 100 whose count stands one below its limit. -/
def nearPinch (mode : WMode) : State := upRun (runRec 30 1 2 true) .learned 100 mode

theorem test_met_HallEdgesTaken : Awake inRun ∧ inRun.stages.get (.window .w1) = .off
    ∧ (inPark.sys.inReset = false ∧ inPark.sys.mode = .park)
    ∧ Awake (nearPinch .auto) ∧ (nearPinch .auto).stages.get (.window .w1) = .drive .up
    ∧ ((handed 1000 .w1 .closing .up (nearPinch .auto)).pinchConfirmed .w1 = false
      ∧ (handed 1000 .w1 .closing .up (nearPinch .auto)).edgeStop .w1 .up .closing = none)
    ∧ ((handed 65535 .w1 .closing .up (nearPinch .auto)).pinchConfirmed .w1 = true
      ∧ (handed 65535 .w1 .closing .up (nearPinch .auto)).edgeStop .w1 .up .closing = none)
    ∧ ((handed 1000 .w1 .closing .up (nearPinch (.target 99))).pinchConfirmed .w1 = false
      ∧ (handed 1000 .w1 .closing .up (nearPinch (.target 99))).edgeStop .w1 .up .closing = some .target)
    ∧ ((handed 65535 .w1 .closing .up (nearPinch (.target 99))).pinchConfirmed .w1 = true
      ∧ (handed 65535 .w1 .closing .up (nearPinch (.target 99))).edgeStop .w1 .up .closing = some .target) := by
  decide +kernel

/-- Window W1 at a position, in a mode, with a wrong-direction count. -/
def atPoint (norm : Norm) (p wrong : Nat) (m : WMode) : State := inRun.modWindow .w1 fun r =>
  { r with norm := norm, pmax := some 1000, p := p, wrong := wrong, mode := some m }

/-- The soft stop and the two targets at their bounds, and the eighth pulse in the wrong direction (R69, R78). -/
theorem test_met_HallEdgesTaken_end : (∀ x ∈ [atPoint .learned 991 7 .auto], (x.windows.get .w1).wrong < 8
      ∧ (x.pinch.get .w1).rev.active = false ∧ (x.windows.get .w1).norm = .learned)
    ∧ ((atPoint .learned 991 8 .auto).windows.get .w1).wrong = 8 ∧ (atPoint .unlearned 991 7 .auto |>.windows.get .w1).norm ≠ .learned
    ∧ (atPoint .learned 500 0 (.target 500) |>.windows.get .w1).mode = some (.target 500)
    ∧ [atPoint .learned 991 7 .auto, atPoint .learned 992 7 .manual, atPoint .learned 992 8 .auto, atPoint .unlearned 1000 7 .auto
       , atPoint .learned 499 0 (.target 500), atPoint .learned 500 0 (.target 500), atPoint .learned 992 0 (.target 993)].map
        (·.edgeStop .w1 .down .opening)
        = [none, some .bottom, some .hallFault, none, none, some .target, some .bottom]
    ∧ [atPoint .learned 501 0 (.target 500), atPoint .learned 500 0 (.target 500), atPoint .learned 0 0 .auto].map
        (·.edgeStop .w1 .up .closing) = [none, some .target, none] := by decide +kernel

theorem test_met_PeriodMeasured : ((nearPinch .auto).pinch.get .w1).run = some (runRec 30 1 2 true)
    ∧ (nearPinch .auto).supply.vf = some 12000 ∧ (runRec 30 1 2 true).s = some 1000 ∧ ({ runRec 0 0 2 true with s := none }).s = none
    ∧ (runRec 30 1 2 true).restricted = false ∧ ({ runRec 30 1 2 true with restricted := true }).restricted = true
    ∧ ({ runRec 0 0 2 true with k := 77 }).k ≤ 77 := by decide +kernel

/-- A run record whose last zone is complete with a sum. -/
def fullZone (sum : Nat) : RunRec := { runRec 30 0 2 true with zones := (Vector.replicate 32 (0, 0)).set 31 (sum, 64), learn := true }

theorem test_met_PeriodMeasured_learning : 25 ≤ (runRec 30 1 2 true).n ∧ (runRec 30 1 2 true).pseal < 17
    ∧ 960 ≤ (runRec 30 1 2 true).pdetect ∧ (fullZone 0).learn = true ∧ (fullZone 0).inRange = true
    ∧ ((upRun (fullZone 0) .learned 0 .auto).windows.get .w1).norm = .learned ∧ (runRec 30 1 2 true).learn = false
    ∧ (fullZone 0).zones[(31 : Fin 32)].2 = 64 ∧ (fullZone 0).zones[(0 : Fin 32)].2 ≠ 64
    ∧ inRun.store.shadows[Win.w1.row 5].isVolatile = false := by decide +kernel

/-- What a sum of 64 × 250 makes of an entry: unset, within a quarter, and one step outside it. -/
theorem test_learning : [0, 200, 199].map (fun e => ((fullZone 16000).learned (Vector.replicate 32 e))[(31 : Fin 32)])
    = [250, 206, 199] := by decide +kernel

/-- A Hall edge of a run: n = 23 becomes 24 and S_start is taken; the excess counts only from n = 25 and above the seal. -/
theorem test_period : (let edge (n p dt : Nat) : Option (Nat × Option Nat × Nat) :=
        ((handEdge .w1 .closing true ((upRun { runRec n 0 2 true with sStart := some 100 } .learned p .auto).withNow
          dt)).pinch.get .w1).run.map fun r => (r.n, r.sStart, r.count)
      [edge 23 100 9000, edge 24 100 9000, edge 24 16 9000, edge 24 17 9000])
    = [some (24, some 2750, 0), some (25, some 100, 1), some (25, some 100, 0), some (25, some 100, 1)] := by decide +kernel

/-- A window held in a reversal, its panel switch at UP. -/
def reversing (absolute : Bool) : State :=
  let s := (upRun (runRec 30 0 2 true) .learned 500 .auto).modChan (.panel .w1) fun r => { r with position := .up }
  s.modPinch .w1 fun c => { c with
    rev := { active := true, origin := 400, dist := 100, absolute := absolute, endPos := 500, rel := 100, outcome := .none
             cause := .none } }

theorem test_met_ReversalsRecorded : (nearPinch .auto).sys.mode = .run
    ∧ ((nearPinch .auto).pinch.get .w1).run = some (runRec 30 1 2 true) ∧ (runRec 30 1 2 true).restricted = false
    ∧ (nearPinch .auto).stages.get (.window .w1) = .drive .up ∧ ({ runRec 30 1 2 true with restricted := true }).restricted = true
    ∧ StopCause.pinch ≠ .top ∧ (nearPinch .auto).stages.get (.window .w1) ≠ .brake
    ∧ ((reversing false).pinch.get .w1).rev.active = true ∧ ((reversing false).pinch.get .w1).rev.absolute = false
    ∧ ((reversing true).pinch.get .w1).rev.absolute = true ∧ ((reversing true).windows.get .w1).wrong < 8
    ∧ (inRun.pinch.get .w1).rev.active = false := by decide +kernel

/-- The third reversal restricts; the stops of a reversal, and a stop with cause PINCH, hold the channel. -/
theorem test_reversals :
    ((takePinch .w1 ((nearPinch .auto).modWindow .w1 fun r => { r with reversals := 2 })).windows.get .w1).restricted = true
    ∧ ((takePinch .w1 ((nearPinch .auto).modWindow .w1 fun r => { r with reversals := 1 })).windows.get .w1).restricted = false
    ∧ ((reversing false).reversalEnd .w1 .closing, (reversing true).reversalEnd .w1 .closing
        , (reversing true).reversalEnd .w1 .opening) = (true, false, true)
    ∧ ((settleStopped .w1 .bottom (reversing true)).pinch.get .w1).rev.outcome = .complete
    ∧ ((settleStopped .w1 .released (reversing true)).pinch.get .w1).rev.outcome = .interrupted
    ∧ ((settleStopped .w1 .released (reversing true)).chans.get (.panel .w1)).waiting = true
    ∧ ((settleStopped .w1 .pinch ((inRun.modChan (.panel .w1) fun r => { r with position := .up }))).chans.get
        (.panel .w1)).waiting = true
    ∧ ((settleStopped .w1 .released ((inRun.modChan (.panel .w1) fun r => { r with position := .up }))).chans.get
        (.panel .w1)).waiting = false := by decide +kernel

theorem test_threshold_bounds : ({ runRec 0 0 2 true with k := 77 }).threshold 65535 = 19711
    ∧ (runRec 0 0 2 true).threshold 0 = 80
    ∧ ({ runRec 0 0 2 true with k := 77, restricted := true }).threshold 65535 = 39422 := by decide

/-- An UP run with the 150 ms test armed. -/
def armedRun (edges : Nat) : State := (nearPinch .auto).modWindow .w1 fun r => { r with noPulseArmed := true, edges := edges }

/-- A DOWN run. -/
def downRun (norm : Norm) (p : Nat) : State :=
  (inRun.modWindow .w1 fun r => { r with run := .runDown, norm := norm, p := p, pmax := some 1000, edges := 30 }).setStage
    (.window .w1) (.drive .down)

theorem test_met_RunTestsTaken : ((armedRun 0).windows.get .w1).noPulseArmed = true ∧ ((armedRun 0).windows.get .w1).edges = 0
    ∧ 0 < ((armedRun 1).windows.get .w1).edges ∧ (nearPinch .auto).stages.get (.window .w1) = .drive .up
    ∧ (downRun .learned 500).stages.get (.window .w1) = .drive .down
    ∧ ((nearPinch .auto).windows.get .w1).runDue = some 8000000 := by decide +kernel

/-- The stop cause pending after a stall. -/
def stallStop (s : State) : Option StopCause := ((takeStall .w1 s).windows.get .w1).pending

theorem test_stalls : stallStop (upRun (runRec 30 0 2 true) .learned 24 .auto) = some .top
    ∧ stallStop (upRun (runRec 30 0 2 true) .positionLost 700 .auto) = some .top
    ∧ ((takeStall .w1 (upRun (runRec 30 0 2 true) .learned 960 .auto)).windows.get .w1).run = .reversing
    ∧ stallStop (upRun (runRec 30 0 2 true) .learned 961 .auto) = some .blocked
    ∧ stallStop (downRun .learned 979) = some .blocked ∧ stallStop (downRun .learned 980) = some .bottom
    ∧ stallStop (downRun .unlearned 10) = some .bottom := by decide +kernel

/-- The bottom of a NORM_DOWN run at a position. -/
def normDown (p : Nat) : State := (downRun .unlearned p).modWindow .w1 fun r => { r with normPhase := .normDown, pmax := none }

theorem test_met_RunTestsTaken_results : (normDown 600).stages.get (.window .w1) ≠ .brake
    ∧ ((normDown 600).windows.get .w1).run ≠ .reversing ∧ (inRun.store.shadows[Win.w1.row 5]).isVolatile = false
    ∧ (normDown 600).sys.mode = .run ∧ ((normDown 600).windows.get .w1).norm ≠ .learned
    ∧ ((upRun (runRec 30 0 2 true) .positionLost 700 .auto).windows.get .w1).norm = .positionLost
    ∧ [599, 600, 2047].map (fun p => (((bottomFound .w1 (normDown p)).windows.get .w1).pmax
        , ((bottomFound .w1 (normDown p)).windows.get .w1).pendingFault, (bottomFound .w1 (normDown p)).store.queue.length))
        = [(none, .normFailed, 0), (some 600, .none, 6), (some 2047, .none, 6)]
    ∧ (reachTop .w1 (upRun (runRec 30 0 2 true) .positionLost 700 .auto)).windows.w1.norm = .learned
    ∧ (topFound .w1 (normDown 9)).windows.w1.nextDir = some .down := by decide +kernel

def braking (next : Option WDir) (f : WFault) : State :=
  (inRun.modWindow .w1 fun r =>
    { r with run := .brake, brakeDue := some 40, nextDir := next, pending := some .top, pendingFault := f }).setStage
    (.window .w1) .brake

theorem test_met_WindowBrakeEnds : ((braking (some .down) .none).windows.get .w1).brakeDue = some 40
    ∧ ((braking (some .down) .none).windows.get .w1).nextDir = some .down
    ∧ ((braking none .none).windows.get .w1).nextDir = none ∧ ((braking none .none).windows.get .w1).pending = some .top
    ∧ ((braking none .none).windows.get .w1).pendingFault = .none
    ∧ ((braking none .hallFault).windows.get .w1).pendingFault = .hallFault ∧ WFault.hallFault ≠ .none
    ∧ (braking none .none).entry? (.window .w1) = none ∧ ((braking none .none).pinch.get .w1).rev.active = false
    ∧ (braking none .none).sys.mode = .run := by decide +kernel

/-- A stop behind which an entry waits; a window without a hold, and with a running drive. -/
theorem test_met_WindowBrakeEnds_queued :
    (let s := queueing (braking none .none) [winEntry .w1 .up]
     s.sys.mode = .run ∧ s.entry? (.window .w1) ≠ none ∧ s.held (.window .w1) = false
       ∧ (settleStopped .w1 .top s).windows.w1.run = .queued)
    ∧ inRun.held (.window .w1) = false ∧ inRun.drive? (.window .w1) = none
    ∧ (oneWindow 8).held (.window .w1) = false ∧ ((oneWindow 8).drive? (.window .w1)).isSome = true := by decide +kernel

/-- A Hall fault leaves the window FAULTED and UNLEARNED, its first row queued; an entry behind it goes (log 14). -/
theorem test_met_WindowBrakeEnds_faulted :
    (let s := (braking none .hallFault).modWindow .w1 fun r => { r with norm := .learned }
     s.entry? (.window .w1) = none ∧ (s.pinch.get .w1).rev.active = false ∧ s.sys.mode = .run
       ∧ (s.windows.get .w1).norm ≠ .unlearned ∧ s.store.shadows[Win.w1.row 0].isVolatile = false
       ∧ (let t := settleFaulted .w1 .hallFault .hallFault (queueing s [winEntry .w1 .up])
          t.windows.w1.run = .faulted ∧ t.windows.w1.norm = .unlearned ∧ t.arb.queue = []
            ∧ t.store.queue = [Win.w1.row 0]))
    ∧ ((reversing false).pinch.get .w1).rev.active = true := by decide +kernel

/-- Power at the switches, the panel switch of W1 at a position. -/
def switched (pos : SwitchPos) (s : State) : State :=
  (withIgnition s .acc .standstill).modChan (.panel .w1) fun r => { r with position := pos }

/-- W1 in an UP run of a mode. -/
def moving (m : WMode) : State :=
  (oneWindow 12).modWindow .w1 fun r =>
    { r with run := .runUp, mode := some m, source := some .switchDriver, cls := some .access, norm := .learned, p := 500
             pmax := some 1000 }

theorem test_met_SwitchTaken : Awake inRun ∧ decodeLadder .outside = (inRun.chans.get (.panel .w1)).position
    ∧ (inRun.chans.get .localRL).position = .neutral ∧ switchDir .downAuto = some .down
    ∧ inRun.switchPermitted .localRL = false
    ∧ (withIgnition inRun .acc .standstill).switchPermitted (.panel .w1) = true
    ∧ (inRun.windows.get .w1).run = .stopped
    ∧ (withIgnition inRun .acc .standstill).admission .w1 .switch .up .auto = .go .manual
    ∧ ((inRun.modChan .localFR fun r => { r with position := .up }).chans.get .localFR).position ≠ .neutral := by
  decide +kernel

theorem test_met_SwitchTaken_acts : ((switched .up inRun).chans.get (.panel .w1)).position ≠ .upAuto
    ∧ switchDir .upAuto = some .up ∧ ((switched .upAuto inRun).chans.get (.panel .w1)).position = .upAuto
    ∧ switchDir .upAuto = switchDir .up ∧ SwitchPos.up ≠ .upAuto
    ∧ (switched .up (moving .auto)).switchPermitted (.panel .w1) = true ∧ WMode.auto ≠ .manual
    ∧ ((moving .auto).windows.get .w1).run = .runUp
    ∧ (switched .up (moving .manual)).admission .w1 .switch .up .auto = .go .auto
    ∧ (switched .neutral ((moving .manual).modWindow .w1 fun r => { r with p := 1000, run := .stopped })).admission .w1 .switch
        .down .manual = .still := by decide +kernel

theorem test_met_SwitchTaken_start : (∀ x ∈ [RunState.stopped, .queued, .runUp, .runDown, .brake],
      ((inRun.modWindow .w1 fun r => { r with run := x }).windows.get .w1).run = x)
    ∧ Cls.comfort.rank < (((moving .auto).windows.get .w1).cls.getD .comfort).rank
    ∧ ¬ Cls.access.rank < (((moving .auto).windows.get .w1).cls.getD .comfort).rank
    ∧ inRun.held (.window .w1) = false ∧ (inRun.withArb { inRun.arb with holds := [.window .w1] }).held (.window .w1) = true
    ∧ (queueing inRun [winEntry .w1 .up]).entry? (.window .w1) = some (winEntry .w1 .up)
    ∧ (winEntry .w1 .up).cls.rank ≤ Cls.access.rank ∧ (inRun.windows.get .w1).run ≠ .reversing
    ∧ inRun.stages.get (.window .w1) ≠ .brake := by decide +kernel

/-- Stop requests: the run states, a class below and one not below the movement's, and the brakes. -/
theorem test_met_SwitchTaken_stop :
    (let at_ (f : WindowRec → WindowRec) : State := inRun.modWindow .w1 f
     let under (x : State) : Prop := Cls.comfort.rank < ((x.windows.get .w1).cls.getD .comfort).rank
     under (moving .auto) ∧ ¬ Cls.access.rank < (((moving .auto).windows.get .w1).cls.getD .comfort).rank
       ∧ ((at_ fun r => { r with run := .brake, pending := some .pinch }).windows.get .w1).pending = some .pinch
       ∧ ((braking (some .down) .none).windows.get .w1).nextDir ≠ none ∧ ((braking none .none).windows.get .w1).run = .brake
       ∧ ((at_ fun r => { r with run := .faulted }).windows.get .w1).run = .faulted
       ∧ [applyStop .w1 .comfort .stopRequest (moving .auto), applyStop .w1 .access .stopRequest (moving .auto)
          , applyStop .w1 .occupant .stopRequest (at_ fun r => { r with run := .reversing })
          , applyStop .w1 .access .stopRequest (braking (some .down) .none)].map
            (fun x => ((x.1.windows.get .w1).pending, x.2))
          = [(none, .overruled), (some .stopRequest, .ok), (none, .busy), (some .stopRequest, .ok)]) := by decide +kernel

/-- The brake hold of a revoked window: no entry, one of a class not above, one of a class above. -/
theorem test_met_SwitchTaken_held :
    (let s := (queueing (braking none .none) [winEntry .w1 .up]).withArb
        { queue := [winEntry .w1 .up], running := [], holds := [.window .w1], seq := 1 }
     s.held (.window .w1) = true ∧ s.entry? (.window .w1) = some (winEntry .w1 .up)
       ∧ Cls.comfort.rank < (winEntry .w1 .up).cls.rank ∧ (winEntry .w1 .up).cls.rank ≤ Cls.access.rank
       ∧ (applyStop .w1 .comfort .stopRequest s).2 = .overruled
       ∧ (applyStop .w1 .access .stopRequest s).1.arb = { queue := [], running := [], holds := [.window .w1], seq := 0 }
       ∧ (braking none .none).held (.window .w1) = false) := by decide +kernel

/-- The mode of W1 and the wait of its channel after a change of the panel switch. -/
def afterSwitch (pos : SwitchPos) (s : State) : Option (Option WMode × RunState × Bool) :=
  match exec (.switchChannelChange 0 (.panel .w1) (.band pos)) s with
  | .next t => some ((t.windows.get .w1).mode, (t.windows.get .w1).run, (t.chans.get (.panel .w1)).waiting)
  | _ => none

/-- A deepen takes AUTO, an ease acts on nothing, and a press on an AUTO movement stops it and waits. -/
theorem test_switch : afterSwitch .upAuto (switched .up (moving .manual)) = some (some .auto, .runUp, false)
    ∧ afterSwitch .up (switched .upAuto (moving .auto)) = some (some .auto, .runUp, false)
    ∧ (afterSwitch .down (switched .neutral (moving .auto))).map (·.2) = some (.brake, true) := by decide +kernel

/-- A restart aimed at Pmax − 8 ends BOTTOM, one aimed above it too; one aimed below it ends TARGET (R78). -/
theorem test_endpoints : [(992, 992), (993, 993), (991, 991), (993, 992)].map (fun (x : Nat × Nat) =>
      ({ WindowRec.reset with norm := .learned, pmax := some 1000, p := x.1, mode := some (.target x.2) }).endPoint .down)
    = [some .target, some .bottom, some .target, some .target] := by decide

def learnedRx (p : Nat) : State := (rx .body).modWindow .w1 fun r => { r with norm := .learned, pmax := some 1000, p := p }

theorem test_met_WindowRequested : Receiving (learnedRx 500) .body ∧ Admitted (learnedRx 500) .body 3 ∧ winOf 3 = some .w4
    ∧ (learnedRx 500).admission .w1 .port .up .auto = .go .auto ∧ (learnedRx 992).admission .w1 .port .down .auto = .still
    ∧ (rx .body).admission .w1 .port .up .auto = .no .notNormalized
    ∧ (learnedRx 500).windowBarred .w1 = none ∧ ((learnedRx 500).windows.get .w1).norm = .learned
    ∧ ((rx .body).windows.get .w1).norm ≠ .learned
    ∧ ((rx .body).withCrash { inRun.crash with latched := true }).windowBarred .w1 = some .crashActive := by decide +kernel

/-- The checks of R74 in order, and check 7 at Pmax − 8. -/
theorem test_met_WindowRequested_checks :
    (let at_ (f : WindowRec → WindowRec) : State :=
       inRun.modWindow .w1 fun r => f { r with norm := .learned, pmax := some 1000, p := 500 }
     [at_ id, at_ fun r => { r with run := .faulted }, at_ fun r => { r with run := .reversing }
      , at_ fun r => { r with run := .brake, pending := some .hallFault }, at_ fun r => { r with run := .brake, pending := some .top }
      , at_ fun r => { r with normPhase := .normUp }].map (·.windowBarred .w1)
         = [none, some .notNormalized, some .busy, some .busy, none, some .busy]
       ∧ (let x := at_ fun r => { r with restricted := true }
          [x.admission .w1 .switch .up .auto, x.admission .w1 .comfort .up .auto, x.admission .w1 .port .down .auto]
            = [.go .manual, .no .inhibited, .go .auto])
       ∧ [Norm.learned, .positionLost, .unlearned].map (fun n => (at_ fun r => { r with norm := n }).admission .w1 .port .down .auto)
         = [.go .auto, .go .auto, .no .notNormalized]
       ∧ [991, 992].map (fun p => (at_ fun r => { r with p := p }).admission .w1 .port .down .manual) = [.go .manual, .still]) := by
  decide +kernel

theorem test_met_NormalizationStarts : Receiving (rx .body) .body ∧ Admitted (rx .body) .body 3 ∧ winOf 0 = some .w1
    ∧ ((learnedRx 500).windows.get .w1).norm ≠ .unlearned ∧ ((rx .body).windows.get .w1).norm = .unlearned
    ∧ (unlearn .w1 (learnedRx 500)).row (Win.w1.row 0) = padBytes 13 [0x03, 0xE8] := by
  decide +kernel

/-! ### Hypotheses met: access -/

def known : State := withFob (rx .radio) .s2 (fob 0x01020304 100)

def following : State :=
  (withFob inRun .s2 { fob 7 100 with press := some { button := .lock, counter := 100, time := 0, repeatSeen := false } }).withTracker
    { held := some { slot := .s2, button := .lock, comfort := false, gapDue := 300000 }, eligible := true, holdTime := 0 }

theorem test_met_CounterJudged :
    (let d (c : Word32) := (c - (twoFobs.fobs.get .s0).counter).toNat
     twoFobs.cfg.window = 256 ∧ 1 ≤ d 101 ∧ d 356 ≤ 256 ∧ 256 < d 357 ∧ d 32868 ≤ 32768 ∧ 32768 < d 32869 ∧ d 100 = 0)
    ∧ (twoFobs.fobs.get .s0).resync = none
    ∧ (({ fob 7 100 with resync := some 400 }).resync = some 400 ∧ (401 : Word32) = 400 + 1 ∧ (402 : Word32) = 400 + 2)
    ∧ (following.tracker.held.any (·.slot == .s2) = true ∧ (following.fobs.get .s2).press.any (·.button == .lock) = true)
    ∧ following.tracker.held.any (·.slot == .s1) = false ∧ (following.fobs.get .s2).press.any (·.button == .unlock) = false
    ∧ (403 : Word32) ≠ 400 + 1 ∧ (403 : Word32) ≠ 400 + 2 := by decide +kernel

theorem test_counter_bounds : twoFobs.judgeTelegram .s0 101 .lock 0 = .accepted
    ∧ twoFobs.judgeTelegram .s0 356 .lock 0 = .accepted ∧ twoFobs.judgeTelegram .s0 357 .lock 0 = .resyncPending
    ∧ twoFobs.judgeTelegram .s0 32868 .lock 0 = .resyncPending ∧ twoFobs.judgeTelegram .s0 32869 .lock 0 = .stale
    ∧ following.judgeTelegram .s2 100 .lock 1 = .repeated ∧ following.judgeTelegram .s2 100 .unlock 1 = .stale
    ∧ following.judgeTelegram .s2 100 .lock 0 = .stale ∧ twoFobs.judgeTelegram .s0 100 .lock 1 = .stale
    ∧ [401, 402, 403].map (fun c => (withFob inRun .s0 { fob 7 100 with resync := some 400 }).judgeTelegram .s0 c .lock 0)
        = [.resynced, .resynced, .resyncPending] := by
  decide +kernel

theorem test_met_TelegramRejected : Receiving known .radio ∧ Admitted known .radio 4 ∧ buttonOf 2 = some .tailgate
    ∧ (15 : Byte).toNat ≤ 15 ∧ known.findFob (word32 9 9 9 9) = none ∧ known.findFob (word32 1 2 3 4) = some .s2
    ∧ (known.fobs.get .s2).state ≠ .suspended ∧ known.judgeTelegram .s2 101 .lock 0 = .accepted
    ∧ known.judgeTelegram .s2 1000 .lock 0 = .resyncPending ∧ known.judgeTelegram .s2 99 .lock 0 = .stale := by
  decide +kernel

theorem test_met_TelegramRejected_suspended :
    (withFob known .s2 { fob 0x01020304 100 with state := .suspended }).findFob (word32 1 2 3 4) = some .s2
    ∧ ((withFob known .s2 { fob 0x01020304 100 with state := .suspended }).fobs.get .s2).state = .suspended
    ∧ (withFob known .s2 { fob 0x01020304 100 with resync := some 1000 }).judgeTelegram .s2 1001 .lock 0 = .resynced := by
  decide +kernel

theorem test_met_TelegramAccepted_repeated :
    let s := following.modPort .radio fun u => { u with receiving := true }
    Receiving s .radio ∧ Admitted s .radio 4 ∧ s.findFob 7 = some .s2 ∧ (s.fobs.get .s2).state ≠ .suspended
      ∧ s.judgeTelegram .s2 100 .lock 3 = .repeated := by decide +kernel

/-- The ceiling is reached 32 counts after it was set, and not before; the row is not volatile. -/
theorem test_met_TelegramAccepted_slot : ((132 - (known.fobs.get .s2).ceiling : Word32)).toNat < 2147483648
    ∧ 2147483648 ≤ ((131 - (known.fobs.get .s2).ceiling : Word32)).toNat
    ∧ known.store.shadows[SlotId.s2.row].isVolatile = false ∧ SlotId.s3 ≠ .s2
    ∧ known.sys.mode = .run ∧ known.effSpeed = .standstill ∧ (withIgnition known .off .moving).effSpeed = .moving
    ∧ inRun.findFob 7 = none := by decide +kernel

/-- A first fob press of a slot, kept. -/
def pressed (k : SlotId) (b : KeyDir) : State :=
  inRun.withPresses { inRun.presses with fob := some { slot := k, button := b, due := 3000000 } }

/-- The comfort set of W1 alone, its window moving for it. -/
def comforted : State := ((moving .auto).modWindow .w1 fun r => { r with source := some .comfort }).withComfort
  ((Wins.all false).set .w1 true)

theorem test_met_OccupantActions : (withIgnition inRun .run .standstill).ctx.ignition ≠ .off ∧ inRun.ctx.ignition = .off
    ∧ (withIgnition inRun .off .moving).effSpeed = .moving ∧ inRun.effSpeed = .standstill
    ∧ (inRun.modLatch .fl fun r => { r with state := .deadlocked }).stateIsTarget .deadlock (.lock .fl) = true
    ∧ inRun.stateIsTarget .deadlock (.lock .fl) = false
    ∧ (following.tracker.held.isSome = true ∧ (following.fobs.get .s2).press.isSome = true
      ∧ following.tracker.eligible = true ∧ following.crash.latched = false)
    ∧ (holding true).tracker.held.any (·.comfort) = true
    ∧ (moving .auto).admission .w1 .comfort .down .auto = .go .auto
    ∧ inRun.admission .w1 .comfort .up .auto ≠ .go .auto := by decide +kernel

/-- Presses: a first LOCK is kept, a second deadlocks, a first UNLOCK by mode; IGNITION_STATE. -/
theorem test_fob_actions : (fobAction .radio .s0 .lock .selective inRun).2.1 = .queued
    ∧ (fobAction .radio .s0 .unlock .selective inRun).2.1 = .ok
    ∧ (fobAction .radio .s0 .lock .global (withIgnition inRun .run .standstill)).2.1 = .ignitionState
    ∧ (fobAction .radio .s0 .lock .global inRun).1.presses.fob = some { slot := .s0, button := .lock, due := 3000000 }
    ∧ (fobAction .radio .s0 .lock .global (pressed .s0 .lock)).1.presses.fob = none
    ∧ (fobAction .radio .s0 .lock .global (pressed .s0 .lock)).1.groups.entries.map (·.action) = [.deadlockAll]
    ∧ (fobAction .radio .s0 .lock .global (pressed .s1 .lock)).1.groups.entries.map (·.action) = [.lockAll]
    ∧ (passiveAction .radio .tg .global (withIgnition inRun .off .moving)).2.1 = .moving := by decide +kernel

/-- The end of comfort stops the window still in the set, and empties it. -/
theorem test_comfort : ((endComfort comforted).windows.get .w1).run = .brake ∧ (endComfort comforted).comfort.get .w1 = false
    ∧ ((trackRepeat .s2 (following.withNow 100)).tracker.held.map (·.comfort)) = some true
    ∧ ((trackRepeat .s2 ((following.withNow 100).withCrash { inRun.crash with latched := true })).tracker.held.map (·.comfort))
        = some false := by decide +kernel

theorem test_met_PassiveTriggers : Awake inRun := by decide

def searching (p : Port) (o : Origin) : State :=
  (withFob (rx p) .s2 (fob 0x01020304 100)).withSearch
    { inRun.search with state := .inFlight, seq := 1, origin := some o, due := some 200000 }

theorem test_met_SearchReadAndTimedOut : Receiving (searching .radio .tg) .radio ∧ Admitted (searching .radio .tg) .radio 4
    ∧ (searching .radio .tg).search.state = .inFlight ∧ (searching .radio .tg).search.origin = some .tg
    ∧ (rx .radio).search.state ≠ .inFlight ∧ (searching .radio .tg).search.due = some 200000 := by decide +kernel

theorem test_met_SearchResulted : Receiving (searching .radio .flLock) .radio ∧ Admitted (searching .radio .flLock) .radio 4
    ∧ (searching .radio .flLock).search.state = .inFlight ∧ (searching .radio .flLock).search.origin = some .flLock
    ∧ (rx .radio).search.state ≠ .inFlight ∧ (searching .radio .tg).search.due = some 200000
    ∧ (searching .radio .tg).search.seq ≠ 2
    ∧ ((searching .radio .frUnlock).findFob (word32 1 2 3 4) = some .s2
      ∧ ((searching .radio .frUnlock).fobs.get .s2).state ≠ .suspended
      ∧ zoneByteOf 1 = some (matchingZone .frUnlock) ∧ boolOf 1 = some true)
    ∧ boolOf 0 = some false ∧ (3 : Byte).toNat ≤ 3 ∧ zoneByteOf 3 = some .inside ∧ Zone.inside ≠ matchingZone .flLock
    ∧ (searching .radio .tg).findFob 9 = none
    ∧ ((withFob (searching .radio .tg) .s2 { fob 7 1 with state := .suspended }).fobs.get .s2).state = .suspended := by
  decide +kernel

/-- The action a SEARCH_RESULT leaves, of a fob in a zone with one inside or not. -/
def judged (o : Origin) (ident zone inside : Byte) : Option SearchAction :=
  match exec (.searchResult 0 .radio [1, 0, inside, 1, 2, 3, ident, zone]) (searching .radio o) with
  | .next t => some t.search.action
  | _ => none

theorem test_search : [judged .flLock 9 0 1, judged .flLock 9 0 0, judged .flLock 4 1 0, judged .flUnlock 4 0 1]
    = [some .keyInside, some (.code .unknownFob), some .zoneMismatch, some (.code .ok)] := by decide +kernel

/-- A port on which administration is admitted: the body port in ignition RUN at standstill. -/
def admin (f : Fob) : State := withFob (withIgnition (rx .body) .run .standstill) .s5 f

theorem test_met_FobAdministrationChecked : Receiving (admin Fob.reset) .body ∧ Admitted (admin Fob.reset) .body 5
    ∧ slotOf 5 = some .s5 ∧ (rx .body).ctx.ignition ≠ .run ∧ (admin Fob.reset).ctx.ignition = .run
    ∧ (withIgnition (rx .body) .run .moving).ctx.speed = .moving ∧ (admin Fob.reset).effSpeed = .standstill
    ∧ ((admin Fob.reset).withCtx { (admin Fob.reset).ctx with fresh := false }).ctx.fresh = false
    ∧ modeOf 1 = some .global ∧ boolOf 1 = some true ∧ ((admin Fob.reset).fobs.get .s5).enrolled = false
    ∧ ((admin (fob 7 1)).fobs.get .s5).state = .active
    ∧ ((admin { fob 7 1 with state := .suspended }).fobs.get .s5).state = .suspended := by decide +kernel

theorem test_met_FobsEnrolledAndRemoved : ((admin Fob.reset).fobs.get .s5).enrolled = false
    ∧ ((admin Fob.reset).fobs.get .s5).state = .empty ∧ (admin Fob.reset).findFob 7 = none
    ∧ (withFob (admin Fob.reset) .s0 (fob 7 1)).findFob 7 ≠ none
    ∧ ((admin (fob 7 1)).fobs.get .s5).enrolled = true ∧ ((admin (fob 7 1)).fobs.get .s5).state ≠ .empty := by decide +kernel

/-! ### Hypotheses met: crash -/

def pulsed (line : LineState) (count : Nat) : State :=
  inRun.withCrash { inRun.crash with line := line, count := count, lastRise := 0 }

theorem test_met_CrashLineJudged : inPark.sys.inReset = false ∧ State.reset.sys.inReset = false ∧ inRun.sys.mode ≠ .park
    ∧ Awake inRun ∧ (pulsed .low 2).crash.line = .low
    ∧ ((pulsed .idle 1).crash.line = .idle ∧ 0 < (pulsed .idle 1).crash.count ∧ (pulsed .idle 1).crash.lastRise + msec 12 ≤ inRun.now + 12000)
    ∧ (let s := State.reset.withCrash { inRun.crash with line := .low, count := 2 }
       s.sys.inReset = false ∧ s.sys.mode = .starting ∧ s.crash.line = .low ∧ s.crash.count = 2
         ∧ msec 8 ≤ s.now + 12000 - s.crash.lowStart ∧ s.now + 12000 - s.crash.lowStart ≤ msec 12) := by decide +kernel

/-- What a low of a length leaves of the count, from a count of 1. -/
def countAfter (len : Time) : Option Nat :=
  match exec (.crashLineLowEnd len) (pulsed .low 1) with
  | .next t => some t.crash.count
  | _ => none

theorem test_pulse_bounds : [countAfter 7999, countAfter 8000, countAfter 12000, countAfter 12001, countAfter 100000]
    = [some 0, some 2, some 2, some 0, some 0] := by decide +kernel

def noticed (latched : Bool) : State := (rx .restraint).withCrash { inRun.crash with latched := latched }

/-- An UNLOCK of FL running with a LOCK entry behind it, that group 2 waits on. -/
def queuedBehind : State :=
  queueing (running (powered (noticed false) 12) [lockDrive .fl .unlock]) [{ lockEntry .fl .lock with waiting := [2] }]

/-- The crash dismisses the LOCK entry behind the UNLOCK drive (log 38), and a waiting window goes. -/
theorem test_dismissal : (match exec (.crashNotice 0 .restraint [1]) queuedBehind with
    | .next t => (t.arb.queue.map (·.act), t.drive? (.lock .fl) |>.map (·.dir))
    | _ => ([.release], none)) = ([], some .unlock) := by decide +kernel

theorem test_met_CrashNoticeTaken : Receiving (noticed false) .restraint ∧ Admitted (noticed false) .restraint 6
    ∧ 1 ≤ (1 : Byte).toNat ∧ (3 : Byte).toNat ≤ 3 ∧ (noticed false).crash.latched = false
    ∧ (noticed true).crash.latched = true
    ∧ (queuedBehind.entry? (.lock .fl)).map (·.dir) = some .lock ∧ inRun.entry? (.lock .fl) = none
    ∧ (searching .radio .tg).search.state = .inFlight ∧ inRun.search.state ≠ .inFlight
    ∧ (queueing inRun [winEntry .w1 .up]).entry? (.window .w1) ≠ none ∧ inRun.entry? (.window .w1) = none := by decide +kernel

/-- After a crash no window runs, and the five latches, unlocked before it, are driven all the same. -/
theorem test_crash : (match exec (.crashNotice 0 .restraint [2])
      (running (powered (noticed false) 12) [winDrive .w1 .up]) with
    | .next t => (t.arb.running.map (·.act), t.crash.severity, (t.windows.get .w1).pending)
    | _ => ([], 0, none))
    = (Latch.list.map Actuator.lock, 2, some .crash) := by decide +kernel

theorem test_met_CrashCleared : Receiving (rx .body) .body ∧ Admitted (rx .body) .body 7
    ∧ ([] : List Byte).length ≤ 14 := by decide +kernel

/-- A low measured in PARK wakes the part, one in STARTING is measured as well (R148). -/
theorem test_low_measured : [inPark, State.reset].map (fun s => match exec (.crashLineLowMeasured 1000) s with
    | .next t => some (t.crash.line, t.sys.mode)
    | _ => none) = [some (.low, .run), some (.low, .starting)] := by decide +kernel

/-! ### Hypotheses met: feedback and store -/

def play (phase : PlayPhase) (flash flashes chirp chirps : Nat) : Playback :=
  { phase := phase, flash := flash, chirp := chirp, flashes := flashes, onTime := 1, offTime := 1, chirps := chirps
    divider := 62, due := 100 }

def playing (pb : Playback) (q : List (Fin 8)) : State := inRun.withFeedback { queue := q, playing := some pb }

/-- The wave of a chirp with divider 62: high for 63 ticks of 4 µs from its start, then low, and none in a flash. -/
theorem test_sounder : [0, 251, 252, 503, 504].map (fun dt =>
      ((playing { play .chirpOn 1 1 1 1 with due := 60000 } [0]).withNow dt).sounderLevel) = [true, true, false, false, true]
    ∧ (playing (play .flashOn 1 1 0 1) [0]).sounderLevel = false := by decide

theorem test_met_FullQueueReplacesTail : (playing (play .flashOn 1 1 0 1) [0, 1, 2, 3]).feedback.queue = [0, 1, 2, 3]
    ∧ (playing (play .flashOn 1 1 0 1) [0, 1, 2]).feedback.queue.length < 4 ∧ inRun.feedback.queue = []
    ∧ State.reset.sys.mode = .starting ∧ inRun.sys.mode ≠ .starting := by decide

theorem test_met_PatternPhaseEnds :
    (playing (play .chirpOff 2 2 1 1) [0, 6]).feedback.playing = some (play .chirpOff 2 2 1 1)
    ∧ (play .flashOn 1 1 0 1).next 100 = some { play .flashOn 1 1 0 1 with phase := .flashOff, due := 101 }
    ∧ (play .chirpOff 2 2 1 1).next 100 = none
    ∧ (play .flashOff 1 2 0 0).flash < (play .flashOff 1 2 0 0).flashes
    ∧ (play .flashOff 2 2 0 1).flashes ≤ (play .flashOff 2 2 0 1).flash ∧ 0 < (play .flashOff 2 2 0 1).chirps
    ∧ (play .chirpOff 2 2 1 2).chirp < (play .chirpOff 2 2 1 2).chirps ∧ (play .flashOff 2 2 0 0).chirps = 0
    ∧ 0 < inRun.cfg.flashes (0 : Fin 8) ∧ inRun.feedback.queue = [] := by decide +kernel

/-- Patterns 0 and 1 without flashes, the second without chirps as well. -/
def flashless : State := (inRun.setRow 1 (((inRun.row 1).set 6 0x10).set 10 0)).withFeedback { queue := [0], playing := none }

theorem test_met_PatternPhaseEnds_flashless : flashless.cfg.flashes (0 : Fin 8) = 0 ∧ flashless.cfg.chirps (0 : Fin 8) = 1
    ∧ flashless.cfg.flashes (1 : Fin 8) = 0 ∧ flashless.cfg.chirps (1 : Fin 8) = 0
    ∧ ((startPlayback flashless).feedback.playing.map (·.phase)) = some .chirpOn
    ∧ (startPlayback (flashless.withFeedback { queue := [1, 0], playing := none })).feedback.queue = [0]
    ∧ (startPlayback (flashless.withFeedback { queue := [1], playing := none })).feedback.queue = [] := by decide +kernel

theorem test_met_PatternPhaseEnds_outputs : (playing (play .flashOn 1 1 0 1) [0]).indicator = true
    ∧ (playing (play .chirpOn 1 1 1 1) [0]).sounder = true
    ∧ (playing (play .chirpOn 1 1 1 1) [0]).now < (play .chirpOn 1 1 1 1).due ∧ inRun.sounderLevel = false := by decide

theorem test_met_RowProgramsRun : (supplied 8000).sys.inReset = false ∧ (supplied 8000).store.queue = 4 :: [5]
    ∧ (supplied 8000).store.program = none ∧ (supplied 8000).sys.mode ≠ .park ∧ (supplied 8000).supply.vf = some 8000
    ∧ (supplied 7999).supply.vf = some 7999 ∧ programming.store.program ≠ none ∧ inRun.store.queue = []
    ∧ PhysRow.unreadable ≠ rowBytes 4 1 (padBytes 13 [1]) := by decide +kernel

/-- A failed verify takes the first spare, row 35. -/
theorem test_relocation : (match exec (.rowProgramEnd (some .unreadable)) programming with
    | .next t => t.store.program.map fun g => (g.target, g.generation)
    | _ => none) = some (35, 2) := by decide +kernel

theorem test_met_RowProgramsRun_spare : freeSpare programming.store.map = some 35
    ∧ freeSpare (Vector.replicate 48 .inUse) = none
    ∧ (exhaust { row := 4, content := padBytes 13 [], generation := 1, target := 4, due := 9 } (supplied 8000)).store.queue = [5]
    ∧ (exhaust { row := 4, content := padBytes 13 [], generation := 1, target := 4, due := 9 }
        (supplied 8000)).store.shadows[(4 : LRow)].isVolatile = true := by decide +kernel

theorem test_met_StoreWritesQueued : inRun.sys.mode ≠ .park ∧ inPark.sys.mode = .park
    ∧ inPark.store.shadows[(7 : LRow)].isVolatile = false
    ∧ (endScan crowded).store.shadows[(5 : LRow)].isVolatile = true ∧ (7 : LRow) ≠ 4 := by decide +kernel

/-- A row joins the tail, keeps its place, and has no entry when it is volatile. -/
theorem test_store_writes : ((storeWrite 7 (padBytes 13 []) (supplied 8000)).store.queue
      , (storeWrite 4 (padBytes 13 []) (supplied 8000)).store.queue
      , (storeWrite 5 (padBytes 13 []) (endScan crowded)).store.queue
      , (storeWrite 7 (padBytes 13 []) inPark).sys.mode)
    = ([4, 5, 7], [4, 5], [], .run) := by decide +kernel

theorem test_met_ConfigStagedAndCommitted : Receiving (rx .body) .body ∧ Admitted (rx .body) .body 7
    ∧ (List.replicate 13 (0 : Byte)).length ≤ 13 ∧ (rx .body).effSpeed = .standstill
    ∧ (withIgnition (rx .body) .run .moving).effSpeed = .moving
    ∧ crc8 ((rx .body).store.staging.getD (rx .body).cfg).toList ≠ 0 := by decide +kernel

/-- Bytes staged up to byte 51; fields limited at both ends; a commit that changes the link evaluates the inhibits. -/
theorem test_commit : ((stageBytes factoryImage 50 [1, 2, 3]).toList.drop 49) = [factoryImage.toList.getD 49 0, 1, 2]
    ∧ (let img := stageBytes (stageBytes factoryImage 0 [0xFF, 0x8F, 81]) 3 [14, 61, 3, 0, 255]
       (List.range 8).map img.limited.byte = [0xFC, 0x2F, 80, 15, 60, 4, 1, 0])
    ∧ (let img : Image := factoryImage.set 1 0x3D
       let t := commitImage img (inRun.modChild .left fun r => { r with state := .engaged })
       img.byte 1 / 2 % 2 ≠ inRun.cfg.byte 1 / 2 % 2 ∧ t.store.queue = [0, 1, 2, 3] ∧ t.cfg = img) := by decide +kernel

/-! ### Hypotheses met: ports, events and modes -/

theorem test_met_ResponseBuilt : Awake inRun ∧ inRun.pins.cs.get .body = false ∧ Port.radio ≠ .body
    ∧ (inRun.withPins { inRun.pins with cs := inRun.pins.cs.set .body true }).pins.cs.get .body = true
    ∧ heldInReset.sys.inReset = true ∧ (inPark.sys.mode = .park ∧ inPark.pins.cs.get .body = false) := by decide

/-- SDO: nothing with CS inactive, the frame, then FFh. -/
theorem test_sdo : (inRun.sdoByte .body 0 = none)
    ∧ (match exec (.chipSelectFall 0 .body) inRun with
      | .next t => (t.sdoByte .body 4, t.sdoByte .body 5, t.sdoBit .body 40, (t.ports.get .body).sdo.length)
      | _ => (none, none, none, 0)) = (some (crc8 [0, 0, 0x10, 0]), some 0xFF, some true, 5) := by decide +kernel

theorem test_met_FramesJudged_good : (List.replicate 14 (0 : Byte)).length ≤ 14
    ∧ judgePulse (some ((requestBytes 0x30 (List.replicate 14 1)).flatMap bitsOfByte)) = .good 0x30 (List.replicate 14 1) := by
  decide +kernel

/-- A NOP frame followed by filler. -/
theorem test_nop_frame : judgePulse (some ((requestBytes 0x00 [] ++ [0xAA, 0x55]).flatMap bitsOfByte)) = .good 0x00 [] := by
  decide +kernel

theorem test_met_FramesJudged : Receiving (rx .body) .body ∧ judgePulse (some [true]) = .error
    ∧ (rxStarting.sys.mode = .starting ∧ rxStarting.sys.inReset = false ∧ (rxStarting.ports.get .body).receiving = true)
    ∧ judgePulse (some ((requestBytes 0x00 []).flatMap bitsOfByte)) = .good 0x00 [] ∧ heldInReset.sys.inReset = true
    ∧ judgePulse (some []) = .error ∧ judgePulse none = .noFrame := by
  decide +kernel

theorem test_met_RequestOf : RequestOf 0 .body [] 0x00 (.nop 0 .body []) := .nop

theorem test_met_RequestsChecked_group : Receiving (rx .restraint) .restraint ∧ (rx .restraint).permitted .restraint (0x72 / 16) = false
    ∧ (0x74 : Byte) ∉ knownCodes := by decide +kernel

theorem test_met_RequestsChecked : Receiving (rx .body) .body ∧ (∀ g ∈ [0, 2, 3, 5, 7], Admitted (rx .body) .body g)
    ∧ (Receiving (rx .radio) .radio ∧ Admitted (rx .radio) .radio 4)
    ∧ (Receiving (rx .restraint) .restraint ∧ Admitted (rx .restraint) .restraint 6)
    ∧ ([0] : List Byte).length ≠ 0 ∧ 1 < (2 : Byte).toNat ∧ 3 < (4 : Byte).toNat ∧ 2 < (3 : Byte).toNat
    ∧ 5 < (6 : Byte).toNat := by decide +kernel

theorem test_met_RequestsChecked_bytes : 15 < (16 : Byte).toNat ∧ (2 : Byte) ≠ 1 ∧ (1 : Byte) ≠ 0
    ∧ [exec (.accessTelegram 0 .radio [0, 0, 0, 0, 0, 0, 0, 0, 3, 0]) (rx .radio)
       , exec (.searchResult 0 .radio [0, 0, 0]) (rx .radio), exec (.searchResult 0 .radio [0, 0, 0, 0, 0, 0, 0, 4]) (rx .radio)
       , exec (.enrolFob 0 .body [0, 0, 0, 0, 0, 0, 0, 0, 0, 2, 0]) (rx .body)
       , exec (.setFobMode 0 .body [0, 0, 2]) (rx .body)].map (fun o => match o with
         | .next t => [(t.ports.get .radio).slot.result, (t.ports.get .body).slot.result]
         | _ => [])
      = [[.badArgument, .noPrevious], [.badArgument, .noPrevious], [.badArgument, .noPrevious], [.noPrevious, .badArgument]
         , [.noPrevious, .badArgument]] := by decide +kernel

theorem test_met_StatusAndEventsServed : Receiving (rx .body) .body
    ∧ ((atOwner 0 .body (rx .body)).status .body 8 0).isSome = true
    ∧ ((atOwner 0 .body (rx .body)).status .body 3 5).isSome = true
    ∧ (9 < (10 : Byte).toNat) ∧ 5 < (6 : Byte).toNat
    ∧ ((inRun.modEvents .body fun r => { r with delayDue := some 9 }).events.get .body).delayDue = some 9
    ∧ Latch.list[4]? = some .tg ∧ Side.list[1]? = some .right ∧ Win.list[3]? = some .w4 ∧ SlotId.list[5]? = some .s5
    ∧ inRun.groups.last.get .body = none ∧ ((testCompletion 1 (grouped [] [])).groups.last.get .body).isSome = true
    ∧ inRun.sys.mode ≠ .park ∧ inPark.sys.mode = .park := by
  decide +kernel

/-- The summary byte and the attention line: a kind of group 6, not enabled, enabled, and with the delay timer running. -/
theorem test_summary : (let r (m : Word32) (d : Timer) : EventRec :=
      { captured := Ev.configRejected.bit, mask := m, delayDue := d }
    [r 0 none, r usedBits none, r usedBits (some 9)].map (fun x => (x.summary, x.attention))
      = [(0, false), (0x40, true), (0x40, false)])
    ∧ (6, 22, 26) ∈ [(0, 0, 3), (1, 4, 8), (2, 9, 13), (3, 14, 18), (4, 19, 20), (5, 21, 21), (6, 22, 26), (7, 27, 27)] := by
  decide +kernel

/-- READ_STATUS outside its lists: LATCH 05h, CHILD 02h, WINDOW 04h and CONFIG 04h. -/
theorem test_status_lists : [(0, 5), (1, 2), (2, 4), (9, 4)].map (fun (x : Byte × Byte) =>
      match exec (.readStatus 0 .body [x.1, x.2]) (rx .body) with
      | .next t => some (t.ports.get .body).slot.result
      | _ => none) = List.replicate 4 (some .badArgument) := by decide +kernel

/-- Status records of a window in an AUTO run and of a completed group. -/
theorem test_status : (moving .auto).status .body 2 0 = some [0x12, 1, 0xF4, 3, 0xE8, 0x46, 0, 0, 0, 0, 0xFF, 0xFF, 0]
    ∧ (testCompletion 1 (grouped [] [])).status .body 5 0 = some [1, 0, 2, 1, 0x1F, 0, 0, 1] := by decide +kernel

def idling : State := inRun.withSys { inRun.sys with park := .running 15000000 }

theorem test_met_RestartAndPark : Receiving (rx .body) .body ∧ (rx .body).permitted .body 7 = true
    ∧ (let s := (rx .body).withSys { inRun.sys with restartPending := true }
       Receiving s .body ∧ s.permitted .body (0x20 / 16) = true ∧ s.sys.restartPending = true)
    ∧ idling.sys.park = .running 15000000 ∧ idling.cfg.wakeBit 0 = true
    ∧ (∀ i, i < 6 → (deafPark.cfg.wakeBit i = false)) := by decide +kernel

/-- All conditions hold, the timer stopped, at its limit and running; one condition fails. -/
def quiet (park : ParkTimer) : State :=
  (State.reset.withSys { State.reset.sys with mode := .run, park := park }).withEvents
    { body := { State.reset.events.body with captured := 0 }, radio := { State.reset.events.radio with captured := 0 }
      restraint := { State.reset.events.restraint with captured := 0 } }

theorem test_met_RestartAndPark_idle : (quiet .stopped).parkConditions = true ∧ (quiet .stopped).sys.park = .stopped
    ∧ (refreshPark (quiet .stopped)).sys.park = .running 10000000
    ∧ (quiet .atLimit).parkConditions = true ∧ (quiet .atLimit).sys.park ≠ .stopped
    ∧ (withIgnition (quiet (.running 5)) .acc .standstill).parkConditions = false
    ∧ (refreshPark (withIgnition (quiet (.running 5)) .acc .standstill)).sys.park = .stopped := by decide +kernel

/-- Under restart pending a refused LOCK_REQUEST or CHILD_LOCK carries group id 0, another request nothing (R192). -/
theorem test_restart_busy : (let s := (rx .body).withSys { inRun.sys with restartPending := true }
    [exec (.lockRequest 0 .body [0, 0, 0, 0xFF]) s, exec (.childLock 0 .body [0, 0]) s, exec (.rearInhibit 0 .body [0]) s].map
      (fun o => match o with
        | .next t => some (t.ports.get .body).slot
        | _ => none))
    = [some { echo := 0x20, result := .busy, payload := [0] }, some { echo := 0x21, result := .busy, payload := [0] }
       , some { echo := 0x22, result := .busy, payload := [] }] := by decide +kernel

/-- A NOP as a whole CS pulse returns the park idle timer to zero, and it starts anew (R200). -/
theorem test_park_pulse : (match exec (.nop 5 .body []) idling with
    | .next t => t.sys.park
    | _ => .atLimit) = .running (5 + idling.cfg.parkDelay) := by decide +kernel

/-- A low measured before 1 ms has passed since the release of the last reset gives FAULT, one from 1 ms on is LOW (R148). -/
theorem test_low_at_reset : [999, 1000].map (fun dt => match exec (.crashLineLowMeasured dt) inRun with
    | .next t => some t.crash.line
    | _ => none) = [some .fault, some .low] := by decide +kernel

end Sys2Proof.Tests
end

section
/-! The invariants that every step keeps and the reset state meets. -/

namespace Sys2Proof.Machine

/-! ### Invariants along a step -/

/-- What a step does: a chain of changes from the state with the front of the queue taken. -/
theorem step_kept {s t : State} (h : step s = .next t) : ∃ q, Kept (s.withPending q) t := by
  unfold step at h
  split at h
  · cases h
    exact ⟨s.pending, (Moves.refl s).kept⟩
  · exact ⟨_, exec_kept h⟩

/-! The bound of one block along a chain: the changes of that block keep it, and a reset meets it. -/

theorem Chain.heatInRange {s t : State} (h : Chain s t) (hs : HeatInRange s) : HeatInRange t := by
  induction h with
  | refl => exact hs
  | latches _ _ k ih => exact k ih
  | reset => exact heatInRange_afterReset _ _ _ _ _
  | _ => assumption

theorem Chain.supplyInRange {s t : State} (h : Chain s t) (hs : SupplyInRange s) : SupplyInRange t := by
  induction h with
  | refl => exact hs
  | supply _ _ k ih => exact k ih
  | reset => exact supplyInRange_afterReset ..
  | _ => assumption

theorem Chain.feedbackBounded {s t : State} (h : Chain s t) (hs : FeedbackBounded s) : FeedbackBounded t := by
  induction h with
  | refl => exact hs
  | feedback _ _ k ih => exact k ih
  | reset => exact feedbackBounded_afterReset ..
  | _ => assumption

theorem Chain.storeQueueOnce {s t : State} (h : Chain s t) (hs : StoreQueueOnce s) : StoreQueueOnce t := by
  induction h with
  | refl => exact hs
  | store _ _ k ih => exact k ih
  | reset => exact storeQueueOnce_afterReset ..
  | _ => assumption

/-- Settles O7: the window budget is carried beside the chain of changes of a step. -/
theorem windowBudgetKept : Obligations.WindowBudgetKept := by
  intro s t hs h
  obtain ⟨q, k⟩ := step_kept h
  exact k.window hs

/-- Settles O9: each bound is kept by the changes of its block and met after a reset. -/
theorem queuesAndRangesKept : Obligations.QueuesAndRangesKept := by
  intro s t hf hq hv hh h
  obtain ⟨q, k⟩ := step_kept h
  exact ⟨k.chain.feedbackBounded hf, k.chain.storeQueueOnce hq, k.chain.supplyInRange hv, k.chain.heatInRange hh⟩

/-- Settles O10. -/
theorem invariantsAtReset : Obligations.InvariantsAtReset :=
  ⟨eventsUsed_afterReset _ _ _ _ _, .inl rfl, fobsDistinct_afterReset _ _ _ _ _, ceilingAhead_afterReset _ _ _ _ _,
    feedbackBounded_afterReset _ _ _ _ _, storeQueueOnce_afterReset _ _ _ _ _, supplyInRange_afterReset _ _ _ _ _,
    heatInRange_afterReset _ _ _ _ _⟩

/-! ### Idle steps and stopped timers -/

/-- The expiry of a timer that does not run changes nothing (log 3). -/
theorem onTimer_of_stopped {due : Timer} {s : State} (act : State → State) (h : due = none) :
    onTimer due act s = .next s := by
  rw [h]; rfl

theorem exec_retainedPowerExpiry (s : State) : exec .retainedPowerExpiry s =
    onTimer s.ctx.retainedDue (fun u => u.withCtx { u.ctx with retainedDue := none }) s := rfl

theorem exec_keyPressTimerExpiry (s : State) : exec .keyPressTimerExpiry s =
    onTimer (s.presses.key.map (·.due)) (fun u => u.withPresses { u.presses with key := none }) s := rfl

theorem exec_fobPressTimerExpiry (s : State) : exec .fobPressTimerExpiry s =
    onTimer (s.presses.fob.map (·.due)) (fun u => u.withPresses { u.presses with fob := none }) s := rfl

theorem exec_releaseWatchExpiry (s : State) : exec .releaseWatchExpiry s = onTimer s.release.watchDue
    (fun u => offer .lockFault (u.withRelease { u.release with watchDue := none, last := .noOpen })) s := rfl

theorem exec_crashLineFault (s : State) : exec .crashLineFault s =
    onTimer s.lineFaultDue (fun u => u.withCrash { u.crash with line := .fault, count := 0 }) s := rfl

theorem exec_crashGapTimeout (s : State) : exec .crashGapTimeout s =
    onTimer s.gapDue (fun u => u.withCrash { u.crash with count := 0 }) s := rfl

theorem exec_eventDelayExpiry (p : Port) (s : State) : exec (.eventDelayExpiry p) s =
    onTimer (s.events.get p).delayDue (fun u => u.modEvents p fun r => { r with delayDue := none }) s := rfl

theorem noPulseDue_disarmed {w : Win} {s : State} (h : (s.windows.get w).noPulseArmed = false) :
    s.noPulseDue w = none := by
  simp [State.noPulseDue, h]

theorem stallDue_without_edge {w : Win} {s : State} (h : (s.windows.get w).edges = 0) : s.stallDue w = none := by
  unfold State.stallDue
  split <;> simp [h]

theorem stallDue_undriven {w : Win} {s : State} (h : ∀ d, s.stages.get (.window w) ≠ .drive d) :
    s.stallDue w = none := by
  unfold State.stallDue
  split
  · rename_i d e
    exact absurd e (h d)
  · rfl

theorem lineFaultDue_high {s : State} (h : s.crash.line ≠ .low) : s.lineFaultDue = none := if_neg h

theorem gapDue_stopped {s : State} (h : s.crash.line ≠ .idle ∨ s.crash.count = 0) : s.gapDue = none :=
  if_neg fun k => h.elim (fun n => n k.1) fun n => absurd k.2 (by omega)

/-- Settles O2: an expiry is `onTimer` on its timer, which is stopped in each of these states. -/
theorem nothingDue : Obligations.NothingDue := by
  refine ⟨?front, fun s h => onTimer_of_stopped _ h,
    fun s h => (exec_retainedPowerExpiry s).trans (onTimer_of_stopped _ h),
    fun l s h => onTimer_of_stopped _ h, fun l o s h => onTimer_of_stopped _ h, fun l s h => onTimer_of_stopped _ h,
    fun l s h => onTimer_of_stopped _ h,
    fun s h => (exec_keyPressTimerExpiry s).trans (onTimer_of_stopped _ (by rw [h]; rfl)),
    fun s h => (exec_fobPressTimerExpiry s).trans (onTimer_of_stopped _ (by rw [h]; rfl)),
    fun s h => onTimer_of_stopped _ h, fun o s h => onTimer_of_stopped _ h,
    fun s h => (exec_releaseWatchExpiry s).trans (onTimer_of_stopped _ h), fun c o s h => onTimer_of_stopped _ h,
    fun c s h => onTimer_of_stopped _ h, fun w b s h => onTimer_of_stopped _ (noPulseDue_disarmed h),
    fun w s h => onTimer_of_stopped _ (stallDue_without_edge h),
    fun w s h => onTimer_of_stopped _ (stallDue_undriven h), fun w s h => onTimer_of_stopped _ h,
    fun w s h => onTimer_of_stopped _ h, fun s h => onTimer_of_stopped _ (by rw [h]; rfl),
    fun s h => onTimer_of_stopped _ h,
    fun s h => (exec_crashLineFault s).trans (onTimer_of_stopped _ (lineFaultDue_high h)),
    fun s h => (exec_crashGapTimeout s).trans (onTimer_of_stopped _ (gapDue_stopped h)), ?playback, ?program,
    fun s h => onTimer_of_stopped _ h, fun s h => onTimer_of_stopped _ h, ?park,
    fun p s h => (exec_eventDelayExpiry p s).trans (onTimer_of_stopped _ h)⟩
  case front =>
    intro s h
    unfold step
    rw [h]
  case playback =>
    intro s h
    show execPatternPhaseEnd s = _
    unfold execPatternPhaseEnd
    rw [h]
  case program =>
    intro x s h
    show execRowProgramEnd x s = _
    unfold execRowProgramEnd
    rw [h]
  case park =>
    intro s h
    show execParkIdleExpiry s = _
    unfold execParkIdleExpiry
    split
    · rename_i d e
      exact absurd e (h d)
    · rfl

/-! ### The context timers -/

/-- A step's last act leaves the vehicle context. -/
@[simp] theorem refreshPark_ctx (s : State) : (refreshPark s).ctx = s.ctx := by
  unfold refreshPark
  split
  · split <;> rfl
  · rfl

/-- A stale record reads MOVING (R7). -/
theorem effSpeed_stale {s : State} (h : s.ctx.fresh = false) : s.effSpeed = .moving := by
  simp [State.effSpeed, h]

theorem becomeStale_fresh (s : State) : (becomeStale s).ctx.fresh = false := by
  unfold becomeStale
  dsimp only
  split
  · rw [(Records.offer _ _).ctx]; rfl
  · rfl

/-- Settles O13. -/
theorem contextTimersExpire : Obligations.ContextTimersExpire := by
  refine ⟨fun d s h => ?_, fun d s h => ?_⟩
  · refine ⟨refreshPark (becomeStale (reach d s)), ?_, ?_, rfl⟩
    · show onTimer s.ctx.staleDue becomeStale s = _
      rw [h, onTimer_due]
    · exact effSpeed_stale (by rw [refreshPark_ctx, becomeStale_fresh])
  · rw [exec_retainedPowerExpiry, h, onTimer_due, reach_ctx]

end Sys2Proof.Machine
end

section
/-! Resets (R3, R194, R199) and input changes outside RUN (R199, R202). -/

namespace Sys2Proof.Machine

/-! ### Resets -/

theorem arrayAfterReset_idle {t : Store} (h : t.program = none) : t.arrayAfterReset = t.array := by
  simp [Store.arrayAfterReset, h]

theorem arrayAfterReset_interrupted {t : Store} {g : Program} (h : t.program = some g) :
    t.arrayAfterReset[g.target] = .unreadable := by
  simp [Store.arrayAfterReset, h]

/-- Every stage is OFF after a reset (R10). -/
theorem afterReset_stage_off (c : ResetCause) (n : Time) (q : List Instr) (pins : Pins) (m : Vector PhysRow 48)
    (a : Actuator) : (State.afterReset c n q pins m).stages.get a = .off := by
  cases a <;> simp [Stages.get]

theorem exec_powerOnReset (pins : Pins) (s : State) : exec (.powerOnReset pins) s =
    .next (State.afterReset .powerOn s.now s.pending pins s.store.arrayAfterReset) := rfl

/-- A restart waits for the store (R194). -/
theorem exec_restartReset (s : State) : exec .restartReset s =
    .next (if s.sys.restartPending = true ∧ s.store.queue = [] ∧ s.store.program.isNone = true
      then resetPart .restart s else s) := rfl

/-- A sample below 6.00 V sets the brown-out reset (R3). -/
theorem exec_vbatSample_low {raw : Nat} {s : State} (h : s.sys.inReset = false) (hv : raw < 6000) :
    exec (.vbatSample raw) s = .next (brownOutHold (reach s.supply.sampleDue s)) := by
  show execVbatSample raw s = _
  have hm : min raw 32767 < 6000 := by omega
  simp [execVbatSample, h, hm]

/-- A sample in brown-out reset (R3). -/
theorem exec_vbatSample_inReset {raw : Nat} {s : State} (h : s.sys.inReset = true) :
    exec (.vbatSample raw) s = .next (if 6500 < raw then resetPart .brownOut (reach s.supply.sampleDue s)
      else (reach s.supply.sampleDue s).withSupply { s.supply with
        sampleDue := max s.now s.supply.sampleDue + msec 5 }) := by
  show execVbatSample raw s = _
  have hm : 6500 < min raw 32767 ↔ 6500 < raw := by omega
  simp [execVbatSample, h]

/-- A sample of 6.00 V or more outside brown-out reset is listed (R1, R201). -/
theorem exec_vbatSample_listed {raw : Nat} {s : State} (h : s.sys.inReset = false) (hv : 6000 ≤ raw) :
    exec (.vbatSample raw) s = .next (refreshPark (listSample (min raw 32767)
      ((s.withNow (max s.now s.supply.sampleDue)).withSupply { s.supply with
        sampleDue := max s.now s.supply.sampleDue + (if s.sys.mode = .park then msec 100 else msec 5) }))) := by
  show execVbatSample raw s = _
  have hm : ¬ min raw 32767 < 6000 := by omega
  simp [execVbatSample, h, hm, State.nextSample]
  rfl

/-- Settles O3. -/
theorem resetsStart : Obligations.ResetsStart := by
  refine ⟨?records, ⟨?powerOn, ?restart, ?waits⟩, ?low, ?held, ?released, ?listed⟩
  case records =>
    refine ⟨rfl, rfl, rfl, rfl, rfl, rfl, rfl, rfl, fun a => afterReset_stage_off _ _ _ _ _ a, rfl, rfl, ?_, rfl, rfl,
      rfl, rfl, rfl, rfl, ?_, ?_, rfl, rfl, rfl⟩
    · intro l
      cases l <;> exact ⟨rfl, rfl, rfl⟩
    · intro p
      cases p <;> rfl
    · intro p
      cases p <;> exact ⟨rfl, rfl⟩
  case powerOn =>
    exact fun pins s => ⟨_, exec_powerOnReset pins s, rfl, rfl, rfl, rfl, rfl, fun h => arrayAfterReset_idle h⟩
  case restart =>
    intro s hr hq hp
    rw [exec_restartReset, if_pos ⟨hr, hq, by simp [hp]⟩, resetPart, arrayAfterReset_idle hp]
  case waits =>
    intro s h
    rw [exec_restartReset, if_neg]
    rintro ⟨hr, hq, hp⟩
    simp [hr, hq, Option.isNone_iff_eq_none.1 hp] at h
  case low =>
    intro raw s h hv
    refine ⟨_, exec_vbatSample_low h hv, rfl,
      afterReset_stage_off .brownOut (max s.now s.supply.sampleDue) s.pending s.pins s.store.arrayAfterReset, rfl, rfl,
      rfl, rfl, ?_⟩
    exact fun g hg => arrayAfterReset_interrupted hg
  case held =>
    intro raw s h hv
    rw [exec_vbatSample_inReset h, if_neg (by omega)]
    rfl
  case released =>
    intro raw s h hv
    exact ⟨_, (exec_vbatSample_inReset h).trans (by rw [if_pos hv]), rfl, rfl, rfl⟩
  case listed =>
    exact fun raw s h hv => exec_vbatSample_listed h hv

/-! ### Input changes outside RUN -/

/-- The form in which an input reaches its owner: with a wake mask bit or without one (R202). -/
def onInputOf (b : Option Nat) (dt : Time) (pin : Pins → Pins) (act : State → State) (s : State) : Out :=
  match b with
  | none => onInput dt pin act s
  | some n => onMaskedInput dt n pin act s

theorem onInputOf_inReset {s : State} (b : Option Nat) (dt : Time) (pin : Pins → Pins) (act : State → State)
    (h : s.sys.inReset = true) : onInputOf b dt pin act s = .next (advance dt (s.withPins (pin s.pins))) := by
  cases b with
  | none => exact onInput_inReset dt pin act h
  | some n => exact onMaskedInput_inReset dt n pin act h

theorem onInputOf_starting {s : State} (b : Option Nat) (dt : Time) (pin : Pins → Pins) (act : State → State)
    (hm : s.sys.mode = .starting) (h : s.sys.inReset = false) :
    onInputOf b dt pin act s = .next (refreshPark (advance dt (s.withPins (pin s.pins)))) := by
  cases b with
  | none => exact onInput_starting dt pin act hm h
  | some n => exact onMaskedInput_starting dt n pin act hm h

/-- Every watched input moves its pin and hands the change to one owner; that of the key cylinder reads the pins as they
stood before. -/
theorem exec_inputChange {s : State} {c : Time → Instr} {b : Option Nat} {pins : Pins} (h : InputChange s c b pins) :
    ∃ pin act, pin s.pins = pins ∧ ∀ dt u, u.pins = s.pins → exec (c dt) u = onInputOf b dt pin act u := by
  cases h with
  | ajar l v => exact ⟨fun p => { p with ajar := p.ajar.set l v }, takeAjar l v, rfl, fun _ _ _ => rfl⟩
  | latchpos l v => exact ⟨fun p => { p with latchpos := p.latchpos.set l v }, takeLatchpos l v, rfl, fun _ _ _ => rfl⟩
  | chpos c v => exact ⟨fun p => { p with chpos := p.chpos.set c v }, takeChpos c v, rfl, fun _ _ _ => rfl⟩
  | ladder c x => exact ⟨fun p => { p with ladders := p.ladders.set c x }, takeSwitch c x, rfl, fun _ _ _ => rfl⟩
  | touch x v => exact ⟨id, fun u => if v then takeTrigger (touchOrigin x) u else u, rfl, fun _ _ _ => rfl⟩
  | tgButton v => exact ⟨id, fun u => if v then takeTgButton u else u, rfl, fun _ _ _ => rfl⟩
  | central v => exact ⟨id, fun u => if v then takeCentral u else u, rfl, fun _ _ _ => rfl⟩
  | keyLock v =>
    exact ⟨fun p => { p with keyLock := v }, takeKeyInput .lock v s.pins, rfl, fun _ _ h => by rw [← h]; rfl⟩
  | keyUnlock v =>
    exact ⟨fun p => { p with keyUnlock := v }, takeKeyInput .unlock v s.pins, rfl, fun _ _ h => by rw [← h]; rfl⟩
  | child v => exact ⟨id, fun u => if v then takeChildButton u else u, rfl, fun _ _ _ => rfl⟩
  | windowLock v =>
    exact ⟨id, fun u => if v then setRearInhibit (!u.child.rearInhibit) u else u, rfl, fun _ _ _ => rfl⟩

/-- An input change outside brown-out reset and STARTING reaches its owner. -/
theorem onInput_taken {s : State} (dt : Time) (pin : Pins → Pins) (act : State → State) (h : s.sys.inReset = false)
    (hm : s.sys.mode ≠ .starting) :
    onInput dt pin act s = .next (refreshPark (act (advance dt (s.withPins (pin s.pins))))) := by
  unfold onInput
  rw [onReport_awake _ _ (by simpa using h)]
  simp [hm]

/-- Outside RUN no switch press is permitted (R71). -/
theorem switchPermitted_outside_run {s : State} (c : Chan) (h : s.sys.mode ≠ .run) : s.switchPermitted c = false := by
  have hm : (s.sys.mode == .run) = false := by simpa using h
  simp [State.switchPermitted, hm]

theorem switchDir_of_ne_neutral {p : SwitchPos} (h : p ≠ .neutral) : ∃ d, switchDir p = some d := by
  cases p with
  | neutral => exact absurd rfl h
  | _ => exact ⟨_, rfl⟩

/-- A ladder that leaves NEUTRAL outside RUN sets its channel waiting (R71). -/
theorem takeSwitch_outside_run {s : State} {c : Chan} {pos : SwitchPos} (hm : s.sys.mode ≠ .run)
    (hc : (s.chans.get c).position = .neutral) (hp : pos ≠ .neutral) :
    takeSwitch c (.band pos) s = s.modChan c fun _ => { position := pos, waiting := true } := by
  obtain ⟨d, hd⟩ := switchDir_of_ne_neutral hp
  have hk : changeKind .neutral pos = .press d := by
    have hn : switchDir .neutral = none := rfl
    simp [changeKind, hd, hn]
  unfold takeSwitch
  simp only [hc, decodeLadder, if_neg hp, hk]
  unfold takePress
  rw [switchPermitted_outside_run c (by exact hm)]
  simp only [Bool.not_false, if_true, holdChan, State.modChan]
  cases c with
  | panel w => cases w <;> rfl
  | _ => rfl

/-- Settles O5. -/
theorem inputsOutsideRun : Obligations.InputsOutsideRun := by
  refine ⟨?inReset, ?starting, ?ignored, ?woken, ?wake, ?taken, ?ladder⟩
  case inReset =>
    intro dt c b pins s hc h
    obtain ⟨pin, act, rfl, e⟩ := exec_inputChange hc
    rw [e dt s rfl, onInputOf_inReset b dt pin act h]
  case starting =>
    intro dt c b pins s hc h hm
    obtain ⟨pin, act, rfl, e⟩ := exec_inputChange hc
    rw [e dt s rfl, onInputOf_starting b dt pin act hm h]
  case ignored =>
    intro dt c b pins s hc h hm hb
    obtain ⟨pin, act, rfl, e⟩ := exec_inputChange hc
    rw [e dt s rfl]
    exact onMaskedInput_ignored dt b pin act h hm hb
  case woken =>
    intro dt c b pins s hc h hm hb
    obtain ⟨pin, act, rfl, e⟩ := exec_inputChange hc
    have hp : (wake (advance dt s)).pins = s.pins := (Records.wake _).pins
    rw [e dt s rfl, e 0 _ hp]
    exact onMaskedInput_woken dt b pin act h hm hb
  case wake =>
    intro s hm
    refine ⟨_, wake_parked hm, rfl, rfl, fun p => ?_⟩
    rw [captureAll_get]
    rfl
  case taken =>
    intro dt s h hm
    exact ⟨fun l v => onInput_taken dt (fun p => { p with ajar := p.ajar.set l v }) (takeAjar l v) h hm,
      fun l v => onInput_taken dt (fun p => { p with latchpos := p.latchpos.set l v }) (takeLatchpos l v) h hm,
      fun c v => onInput_taken dt (fun p => { p with chpos := p.chpos.set c v }) (takeChpos c v) h hm,
      fun c x => onInput_taken dt (fun p => { p with ladders := p.ladders.set c x }) (takeSwitch c x) h hm⟩
  case ladder =>
    intro dt c pos s h hm hc hp
    have e : exec (.switchChannelChange dt c (.band pos)) s = _ :=
      onInput_taken dt (fun p => { p with ladders := p.ladders.set c (.band pos) }) (takeSwitch c (.band pos)) h
        (by simp [hm])
    rw [e, takeSwitch_outside_run (by simp [hm]) (by simpa using hc) hp]

end Sys2Proof.Machine
end

section
/-! The supply filter and the vehicle context. -/

namespace Sys2Proof.Machine

/-! ### The supply filter -/

@[simp] theorem refreshPark_supply (s : State) : (refreshPark s).supply = s.supply := by
  unfold refreshPark
  split
  · split <;> rfl
  · rfl

/-- A sample that does not complete a list of eight moves the list alone (R1). -/
theorem listSample_incomplete {raw : Nat} {s : State} (h : s.supply.samples.length < 7) :
    listSample raw s = s.withSupply { s.supply with samples := pushSample s.supply.samples raw } := by
  have hf : filtered (pushSample s.supply.samples raw) = none := by
    simp only [filtered, pushSample, List.length_drop, List.length_append, List.length_singleton]
    exact if_neg (by omega)
  unfold listSample
  simp only [hf]

/-- What follows a new V_f leaves it, the samples, the band and B as they were set. -/
theorem applyVf_supply (v : Nat) (s : State) : SupplySame (applyVf v s).supply
    { s.supply with vf := some v, band := nextBand s.supply.band v, budget := budgetOf v } :=
  (((Moves.refl (s.withSupply { s.supply with
    vf := some v, band := nextBand s.supply.band v, budget := budgetOf v })).markSupply.handBand
      s.supply.band).handBudget s.supply.budget).same

/-- With eight samples a new V_f is applied (R1). -/
theorem listSample_complete {raw : Nat} {s : State} (h : 7 ≤ s.supply.samples.length) :
    listSample raw s = applyVf ((pushSample s.supply.samples raw).sum / 8)
      (s.withSupply { s.supply with samples := pushSample s.supply.samples raw }) := by
  have hf : filtered (pushSample s.supply.samples raw) = some ((pushSample s.supply.samples raw).sum / 8) := by
    simp only [filtered, pushSample, List.length_drop, List.length_append, List.length_singleton]
    exact if_pos (by omega)
  unfold listSample
  simp only [hf]

/-- The supply record once a sample completes a list of eight (R1, R2, R4). -/
theorem listSample_supply {raw : Nat} {s : State} (h : 7 ≤ s.supply.samples.length) :
    SupplySame (listSample raw s).supply { s.supply with
      samples := pushSample s.supply.samples raw
      vf := some ((pushSample s.supply.samples raw).sum / 8)
      band := nextBand s.supply.band ((pushSample s.supply.samples raw).sum / 8)
      budget := budgetOf ((pushSample s.supply.samples raw).sum / 8) } := by
  rw [listSample_complete h]
  exact applyVf_supply _ _

/-! The table of the supply band (R2). -/

theorem nextBand_normal (v : Nat) :
    nextBand .normal v = if v < 7000 then .under else if 16500 < v then .over else .normal := rfl

theorem nextBand_under (v : Nat) :
    nextBand .under v = if 16500 < v then .over else if 7500 < v then .normal else .under := rfl

theorem nextBand_over (v : Nat) :
    nextBand .over v = if v < 7000 then .under else if v < 16000 then .normal else .over := rfl

/-- Settles O11. -/
theorem supplyFiltered : Obligations.SupplyFiltered := by
  intro raw s h hv
  refine ⟨_, exec_vbatSample_listed h hv, ?_⟩
  rw [refreshPark_supply]
  generalize hu : (s.withNow (max s.now s.supply.sampleDue)).withSupply { s.supply with
    sampleDue := max s.now s.supply.sampleDue + (if s.sys.mode = .park then msec 100 else msec 5) } = u
  have hs : SupplySame u.supply s.supply := by
    rw [← hu]
    exact ⟨rfl, rfl, rfl, rfl⟩
  rw [← hs.samples, ← hs.vf, ← hs.band, ← hs.budget]
  generalize hraw : min raw 32767 = r
  rcases Nat.lt_or_ge u.supply.samples.length 7 with hl | hl
  · rw [listSample_incomplete hl]
    exact ⟨rfl, fun _ => ⟨rfl, rfl, rfl⟩, fun k => by omega⟩
  obtain ⟨hsamples, hvf, hband, hbudget⟩ := listSample_supply (raw := r) hl
  refine ⟨hsamples, fun k => by omega, fun _ => ⟨_, rfl, ?_⟩⟩
  rw [hsamples, hvf, hband, hbudget]
  generalize (pushSample u.supply.samples r).sum / 8 = v
  refine ⟨rfl, rfl, ?_, ?_, ?_, ?_, ?_, ?_, ?_, ?_, ?_⟩
  · exact fun e k => by rw [e, nextBand_normal, if_pos k]
  · exact fun e k => by rw [e, nextBand_normal, if_neg (by omega), if_pos k]
  · exact fun e k m => by rw [e, nextBand_normal, if_neg (by omega), if_neg (by omega)]
  · exact fun e k => by rw [e, nextBand_under, if_pos k]
  · exact fun e k m => by rw [e, nextBand_under, if_neg (by omega), if_pos k]
  · exact fun e k => by rw [e, nextBand_under, if_neg (by omega), if_neg (by omega)]
  · exact fun e k => by rw [e, nextBand_over, if_pos k]
  · exact fun e k m => by rw [e, nextBand_over, if_neg (by omega), if_pos m]
  · exact fun e k => by rw [e, nextBand_over, if_neg (by omega), if_neg (by omega)]

/-! ### The vehicle context -/

theorem exec_setContext (dt : Time) (p : Port) (l : List Byte) (s : State) :
    exec (.setContext dt p l) s = onRequest dt p 0x10 l setContextOwner s := rfl

theorem setContextOwner_ok {a b : Byte} {i : Ignition} {v : Speed} (p : Port) (s : State) (ha : ignitionOf a = some i)
    (hb : speedOf b = some v) : setContextOwner p [a, b] s = (writeContext i v s, Reply.of .ok) := by
  simp [setContextOwner, ha, hb]

/-- A payload outside the lists is refused (R6). -/
theorem setContextOwner_bad (p : Port) (l : List Byte) (s : State)
    (h : ∀ a b, l = [a, b] → ignitionOf a = none ∨ speedOf b = none) :
    setContextOwner p l s = (s, Reply.of .badArgument) := by
  unfold setContextOwner
  split
  · rename_i a b
    split
    · rename_i i v hi hv
      rcases h a b rfl with k | k
      · rw [k] at hi; cases hi
      · rw [k] at hv; cases hv
    · rfl
  · rfl

@[simp] theorem withCtx_cfg (s : State) (x : Ctx) : (s.withCtx x).cfg = s.cfg := rfl

theorem restartStaleness_pins (s : State) : (restartStaleness s).pins = s.pins := by
  unfold restartStaleness
  split <;> rfl

theorem restartStaleness_ports (s : State) : (restartStaleness s).ports = s.ports := by
  unfold restartStaleness
  split <;> rfl

theorem atOwner_pins (dt : Time) (p : Port) (s : State) :
    (atOwner dt p s).pins = { s.pins with cs := s.pins.cs.set p false } := by
  unfold atOwner
  dsimp only
  split
  · rw [restartStaleness_pins]; rfl
  · rfl

theorem atOwner_ports (dt : Time) (p : Port) (s : State) :
    (atOwner dt p s).ports = s.ports.set p { s.ports.get p with receiving := false } := by
  unfold atOwner
  dsimp only
  split
  · rw [restartStaleness_ports]; rfl
  · rfl

theorem atOwner_port (dt : Time) (p : Port) (s : State) :
    (atOwner dt p s).ports.get p = { s.ports.get p with receiving := false } := by
  rw [atOwner_ports, Ports.get_set_self]

/-- A body port frame restarts the staleness timer while the ignition is not OFF (R7). -/
theorem atOwner_ctx (dt : Time) (p : Port) (s : State) : (atOwner dt p s).ctx =
    if p = .body ∧ s.ctx.ignition ≠ .off then { s.ctx with staleDue := some (s.now + dt + sec 2) } else s.ctx := by
  by_cases hp : p = .body
  · by_cases hi : s.ctx.ignition = .off
    · simp [atOwner, restartStaleness, csRise, State.modPort, hp, hi]
    · simp [atOwner, restartStaleness, csRise, State.modPort, hp, hi]
  · simp [atOwner, csRise, State.modPort, hp]

/-- Settles O12. -/
theorem contextWritten : Obligations.ContextWritten := by
  refine ⟨?written, ?refused, ?taken, fun p code x s => rfl, fun s => rfl⟩
  case written =>
    intro dt p a b i v s hr ha hi hv
    rw [exec_setContext, onRequest_admitted dt p 0x10 _ _ hr ha (by simp), setContextOwner_ok p _ hi hv]
    simp only [writeContext, ignitionChanged, atOwner_ignition, State.withCtx_now, atOwner_now, withCtx_cfg,
      atOwner_cfg]
  case refused =>
    intro dt p l s hr ha hl h
    rw [exec_setContext, onRequest_admitted dt p 0x10 _ _ hr ha hl, setContextOwner_bad p l _ h]
  case taken =>
    intro dt p s
    refine ⟨?_, atOwner_now dt p, atOwner_pins dt p s, atOwner_port dt p s, ?_, ?_, ?_⟩
    · obtain ⟨c, pins, ports, -, -, -, -, e⟩ := atOwner_eq (s := s) dt p
      rw [e]
    · exact fun q hq => by rw [atOwner_ports, Ports.get_set_ne _ _ hq]
    · exact fun hp hi => by rw [atOwner_ctx, if_pos ⟨hp, hi⟩]
    · intro h
      rw [atOwner_ctx, if_neg]
      rintro ⟨hp, hi⟩
      exact h.elim (fun k => k hp) hi

end Sys2Proof.Machine
end

section
/-! Stage reports, lock motor drives and child drives. -/

namespace Sys2Proof.Machine

/-! ### One cell changed twice -/

theorem modLatch_modLatch (l : Latch) (f g : LatchRec → LatchRec) (s : State) :
    (s.modLatch l f).modLatch l g = s.modLatch l fun r => g (f r) := by
  cases l <;> rfl

@[simp] theorem modChild_get (c : Side) (f : ChildRec → ChildRec) (s : State) :
    (s.modChild c f).child.recs.get c = f (s.child.recs.get c) := Sides.get_set_self _ _ _

/-! ### Overcurrent (R11) -/

variable {s : State}

theorem exec_stageOvercurrent (dt : Time) (a : Actuator) (h : s.sys.inReset = false) :
    exec (.stageOvercurrent dt a) s = .next (refreshPark (takeOvercurrent a (advance dt s))) :=
  onReport_awake dt (takeOvercurrent a) h

theorem takeOvercurrent_lock_drive {l : Latch} {d : Dir} (h : s.stages.get (.lock l) = .drive d) :
    takeOvercurrent (.lock l) s = failLock l .short (s.setStage (.lock l) .off) := by
  have e : s.stages.locks.get l = .drive d := h
  simp only [takeOvercurrent, overcurrentLock, e]

theorem takeOvercurrent_lock_brake {l : Latch} (h : s.stages.get (.lock l) = .brake) :
    takeOvercurrent (.lock l) s = endLockHold l (s.modLatch l fun r => { r with fault := .short }) := by
  have e : s.stages.locks.get l = .brake := h
  simp only [takeOvercurrent, overcurrentLock, e]

theorem takeOvercurrent_child_drive {c : Side} {d : Dir} (h : s.stages.get (.child c) = .drive d) :
    takeOvercurrent (.child c) s = failChild c .short (s.setStage (.child c) .off) := by
  have e : s.stages.children.get c = .drive d := h
  simp only [takeOvercurrent, overcurrentChild, e]

theorem takeOvercurrent_release_drive {d : Dir} (h : s.stages.get .release = .drive d) :
    takeOvercurrent .release s = failRelease .short s := by
  have e : s.stages.release = .drive d := h
  simp only [takeOvercurrent, overcurrentRelease, e]

theorem takeOvercurrent_window {w : Win} (h : s.stages.get (.window w) ≠ .off) : takeOvercurrent (.window w) s =
    endWindowDrive w (settleFaulted w .overcurrent .overcurrent ((endRun w s).setStage (.window w) .off)) := by
  unfold takeOvercurrent overcurrentWindow
  dsimp only
  split
  · rename_i e
    exact absurd e h
  · rfl

/-- An overcurrent report of a stage in OFF changes nothing. -/
theorem takeOvercurrent_off {a : Actuator} (h : s.stages.get a = .off) : takeOvercurrent a s = s := by
  cases a with
  | lock l =>
    have e : s.stages.locks.get l = .off := h
    simp only [takeOvercurrent, overcurrentLock, e]
  | child c =>
    have e : s.stages.children.get c = .off := h
    simp only [takeOvercurrent, overcurrentChild, e]
  | release =>
    have e : s.stages.release = .off := h
    simp only [takeOvercurrent, overcurrentRelease, e]
  | window w =>
    have e : s.stages.windows.get w = .off := h
    simp only [takeOvercurrent, overcurrentWindow, e]

/-- Settles O17. -/
theorem overcurrentEndsDrives : Obligations.OvercurrentEndsDrives := by
  refine ⟨?lockDrive, ?lockBrake, ?child, ?release, ?window, ?off⟩
  case lockDrive =>
    intro dt l d s h hs
    rw [exec_stageOvercurrent dt _ h, takeOvercurrent_lock_drive (by exact hs)]
    rfl
  case lockBrake =>
    intro dt l s h hs
    rw [exec_stageOvercurrent dt _ h, takeOvercurrent_lock_brake (by exact hs), endLockHold, modLatch_modLatch]
    rfl
  case child =>
    intro dt c d s h hs
    rw [exec_stageOvercurrent dt _ h, takeOvercurrent_child_drive (by exact hs)]
    rfl
  case release =>
    intro dt d s h hs
    rw [exec_stageOvercurrent dt _ h, takeOvercurrent_release_drive (by exact hs)]
    rfl
  case window =>
    intro dt w s h hs
    rw [exec_stageOvercurrent dt _ h, takeOvercurrent_window (by exact hs)]
  case off =>
    intro dt a s h hs
    rw [exec_stageOvercurrent dt _ h, takeOvercurrent_off (by exact hs)]

/-! ### Stall reports (R12) -/

theorem exec_stageStall (dt : Time) (a : Actuator) (o : Bool) (h : s.sys.inReset = false) :
    exec (.stageStall dt a o) s = .next (refreshPark (takeStageStall a o (advance dt s))) :=
  onReport_awake dt (takeStageStall a o) h

theorem driven_of_drive {a : Actuator} {d : Dir} (h : s.stages.get a = .drive d) : s.driven a = true := by
  simp only [State.driven, h]

theorem driven_eq_false {a : Actuator} (h : ∀ d, s.stages.get a ≠ .drive d) : s.driven a = false := by
  unfold State.driven
  split
  · rename_i d e
    exact absurd e (h d)
  · rfl

theorem takeStageStall_lock {l : Latch} {d : Dir} (o : Bool) (h : s.stages.get (.lock l) = .drive d) :
    takeStageStall (.lock l) o s = endEnergizedLock l o s := by
  simp only [takeStageStall, driven_of_drive h, if_true]

theorem takeStageStall_child {c : Side} {d : Dir} (o : Bool) (h : s.stages.get (.child c) = .drive d) :
    takeStageStall (.child c) o s = endEnergizedChild c o s := by
  simp only [takeStageStall, driven_of_drive h, if_true]

/-- The release, the windows and an idle stage do not use a stall report (R12). -/
theorem takeStageStall_unused {a : Actuator} (o : Bool)
    (h : a = .release ∨ (∃ w, a = .window w) ∨ ∀ d, s.stages.get a ≠ .drive d) : takeStageStall a o s = s := by
  unfold takeStageStall
  rcases h with rfl | ⟨w, rfl⟩ | h
  · exact ite_self _
  · exact ite_self _
  · rw [driven_eq_false h]; rfl

/-! ### Bits of the STATE row -/

/-- Writing one bit of a byte leaves the others. -/
theorem getLsbD_setBit (b : Byte) (n : Nat) (v : Bool) {m : Nat} (hm : m < 8) :
    (setBit b n v).getLsbD m = if m = n then v else b.getLsbD m := by
  have hone : (1#8 <<< n).getLsbD m = decide (m = n) := by
    rw [BitVec.getLsbD_shiftLeft, BitVec.getLsbD_one, decide_eq_true hm]
    by_cases h : m = n
    · simp [h]
    · rcases Nat.lt_or_ge m n with k | k
      · simp [k, h]
      · have hmn : m - n ≠ 0 := by omega
        simp [h, hmn]
  cases v with
  | true =>
    show (b ||| 1#8 <<< n).getLsbD m = _
    rw [BitVec.getLsbD_or, hone]
    by_cases h : m = n <;> simp [h]
  | false =>
    show (b &&& ~~~(1#8 <<< n)).getLsbD m = _
    rw [BitVec.getLsbD_and, BitVec.getLsbD_not, hone, decide_eq_true hm]
    by_cases h : m = n <;> simp [h]

/-- A byte below `2 ^ k` stays so when a bit below `k` is written. -/
theorem setBit_lt {b : Byte} {n k : Nat} (v : Bool) (hb : b.toNat < 2 ^ k) (hn : n < k) :
    (setBit b n v).toNat < 2 ^ k := by
  unfold setBit
  split
  · rw [BitVec.toNat_or]
    refine Nat.or_lt_two_pow hb ?_
    rw [BitVec.toNat_shiftLeft]
    refine (Nat.mod_le _ _).trans_lt ?_
    rw [BitVec.toNat_one (by decide), Nat.one_shiftLeft]
    exact Nat.pow_lt_pow_right (by decide) hn
  · rw [BitVec.toNat_and]
    exact (Nat.and_le_left).trans_lt hb

theorem deadlockBits_lt (s : State) : s.deadlockBits.toNat < 2 ^ 4 := by
  unfold State.deadlockBits
  dsimp only
  split
  · omega
  · decide

theorem childCopies_lt (s : State) : s.childCopies.toNat < 2 ^ 2 := by
  unfold State.childCopies
  dsimp only
  split
  · omega
  · decide

/-! ### Lock motor drives -/

theorem setLatchState_tailgate (v : LatchState) (s : State) :
    setLatchState .tg v s = s.modLatch .tg fun r => { r with state := v } := rfl

/-- The deadlock bit of a side door is written when it changes (R24). -/
theorem setLatchState_side {l : Latch} {n : Nat} (hl : deadBit l = some n) (v : LatchState) (s : State) :
    setLatchState l v s =
      if s.deadlockBits.getLsbD n = (v == .deadlocked) then s.modLatch l fun r => { r with state := v }
      else writeStateByte 3 (setBit s.deadlockBits n (v == .deadlocked))
        (s.modLatch l fun r => { r with state := v }) := by
  simp only [setLatchState, hl, beq_iff_eq]
  rfl

theorem deadBit_lt {l : Latch} {n : Nat} (h : deadBit l = some n) : n < 4 := by
  cases l <;> cases h <;> decide

theorem targetState_eq (d : Dir) :
    targetState d = if d = .unlock then .unlocked else if d = .deadlock then .deadlocked else .locked := by
  cases d <;> rfl

/-- The end of SETTLING without a running drive (R29). -/
theorem settleLock_idle {l : Latch} (h : s.drive? (.lock l) = none) :
    settleLock l s = s.modLatch l fun r => { r with settleDue := none } := by
  simp only [settleLock, h]

theorem settleLock_running {l : Latch} {d : Drive} (h : s.drive? (.lock l) = some d) : settleLock l s =
    (if (s.latches.get l).openLoad then failLock l .openLoad s
     else if (s.latches.get l).position = sensedTarget d.dir then succeedLock l d.dir s
     else if (s.latches.get l).attempts < (s.latches.get l).retries then
       energizeLock l d.dir (s.modLatch l fun r => { r with attempts := r.attempts + 1 })
     else failLock l .noConfirm s) := by
  simp only [settleLock, h]

/-- Settles O18. -/
theorem lockDriveRuns : Obligations.LockDriveRuns := by
  refine ⟨?energized, ?stall, ?unused, ?idle, ?settled, ?hold, fun l f s => rfl, ?success, ?bits, fun s => rfl⟩
  case energized =>
    intro l o d s h
    show onTimer (s.latches.get l).driveDue (endEnergizedLock l o) s = _
    rw [h, onTimer_due]
    rfl
  case stall =>
    intro dt l o d s h hs
    rw [exec_stageStall dt _ o h, takeStageStall_lock o (by exact hs)]
    rfl
  case unused =>
    intro dt a o s h ha
    rw [exec_stageStall dt a o h, takeStageStall_unused o (by exact ha)]
  case idle =>
    intro l d s h hd
    show onTimer (s.latches.get l).settleDue (settleLock l) s = _
    rw [h, onTimer_due, settleLock_idle (by exact hd)]
  case settled =>
    intro l d dr s h hd
    show onTimer (s.latches.get l).settleDue (settleLock l) s = _
    rw [h, onTimer_due, settleLock_running (by exact hd)]
    rfl
  case hold =>
    intro l d s h
    show onTimer (s.latches.get l).brakeDue (endLockHold l) s = _
    rw [h, onTimer_due]
    rfl
  case success =>
    intro l d s
    rw [← targetState_eq]
    rfl
  case bits =>
    intro l v s
    refine ⟨?_, fun n hn => ?_⟩
    · rintro rfl
      exact setLatchState_tailgate v s
    have hl : deadBit l = some n := by
      simp only [List.mem_cons, Prod.mk.injEq, List.not_mem_nil, or_false] at hn
      rcases hn with ⟨rfl, rfl⟩ | ⟨rfl, rfl⟩ | ⟨rfl, rfl⟩ | ⟨rfl, rfl⟩ <;> rfl
    refine ⟨fun h => by rw [setLatchState_side hl, if_pos h],
      fun h => ⟨setBit s.deadlockBits n (v == .deadlocked), ?_, ?_, ?_⟩⟩
    · rw [setLatchState_side hl, if_neg h]
    · exact Nat.le_of_lt_succ (setBit_lt _ (deadlockBits_lt s) (deadBit_lt hl))
    · exact fun m hm => getLsbD_setBit _ _ _ (by omega)

/-! ### Child drives -/

theorem settleChild_running {c : Side} {d : Drive} (h : s.drive? (.child c) = some d) : settleChild c s =
    (if (s.child.recs.get c).openLoad then failChild c .openLoad s
     else if (s.child.recs.get c).position = childTarget d.dir then succeedChild c d.dir s
     else if (s.child.recs.get c).attempts < (s.child.recs.get c).retries then
       energizeChild c d.dir (s.modChild c fun r => { r with attempts := r.attempts + 1 })
     else failChild c .noConfirm s) := by
  simp only [settleChild, h]

theorem exec_chposChange (dt : Time) (c : Side) (v : ChildPos) (h : Awake s) : exec (.chposChange dt c v) s =
    .next (refreshPark (takeChpos c v (advance dt (s.withPins { s.pins with chpos := s.pins.chpos.set c v })))) :=
  onInput_awake dt (fun p => { p with chpos := p.chpos.set c v }) (takeChpos c v) h

/-- A CHPOS change within a drive, or to the state the lock has, moves the position alone (R56). -/
theorem takeChpos_position {c : Side} {v : ChildPos} (h : (s.child.recs.get c).position ≠ v)
    (hd : (s.drive? (.child c)).isSome ∨ (s.child.recs.get c).state = v) :
    takeChpos c v s = s.modChild c fun r => { r with position := v } := by
  have hd' : ((s.modChild c fun r => { r with position := v }).drive? (.child c)).isSome
      ∨ ((s.modChild c fun r => { r with position := v }).child.recs.get c).state = v := by
    rw [modChild_get]
    exact hd
  simp only [takeChpos, if_neg h, if_pos hd']

/-- A manual change outside a drive (R56). -/
theorem takeChpos_manual {c : Side} {v : ChildPos} (h : (s.child.recs.get c).position ≠ v)
    (hs : (s.child.recs.get c).state ≠ v) (hd : s.drive? (.child c) = none) :
    takeChpos c v s = setChildState c v (offer .childChanged (s.modChild c fun r => { r with position := v })) := by
  have hd' : ¬ (((s.modChild c fun r => { r with position := v }).drive? (.child c)).isSome
      ∨ ((s.modChild c fun r => { r with position := v }).child.recs.get c).state = v) := by
    have e : (s.modChild c fun r => { r with position := v }).drive? (.child c) = none := hd
    rw [modChild_get, e]
    simpa using hs
  simp only [takeChpos, if_neg h, if_neg hd']

theorem childBit_inj {c d : Side} : childBit d = childBit c ↔ d = c := by
  cases c <;> cases d <;> decide

theorem childBit_lt (c : Side) : childBit c < 2 := by
  cases c <;> decide

/-- Settles O27. -/
theorem childDrivesRun : Obligations.ChildDrivesRun := by
  refine ⟨?energized, ?stall, ?settled, ?within, ?manual, fun c f s => rfl, fun c d s => rfl, fun c d s => rfl, ?copies,
    fun s => rfl⟩
  case energized =>
    intro c o d s h
    show onTimer (s.child.recs.get c).driveDue (endEnergizedChild c o) s = _
    rw [h, onTimer_due]
    rfl
  case stall =>
    intro dt c o d s h hs
    rw [exec_stageStall dt _ o h, takeStageStall_child o (by exact hs)]
    rfl
  case settled =>
    intro c d dr s h hd
    show onTimer (s.child.recs.get c).settleDue (settleChild c) s = _
    rw [h, onTimer_due, settleChild_running (by exact hd)]
    rfl
  case within =>
    intro dt c v s h hp hd
    rw [exec_chposChange dt c v h, takeChpos_position (by exact hp) (.inl (by exact hd))]
  case manual =>
    intro dt c v s h hp hs hd
    rw [exec_chposChange dt c v h, takeChpos_manual (by exact hp) (by exact hs) (by exact hd)]
  case copies =>
    intro c v s
    refine ⟨fun h => if_pos h, fun h => ⟨setBit s.childCopies (childBit c) (v == .engaged), if_neg h, ?_, fun d => ?_⟩⟩
    · exact Nat.le_of_lt_succ (setBit_lt _ (childCopies_lt s) (childBit_lt c))
    · show (setBit _ _ _).getLsbD (childBit d) = if d = c then _ else s.childCopies.getLsbD (childBit d)
      rw [getLsbD_setBit _ _ _ (by have := childBit_lt d; omega)]
      simp only [childBit_inj]

end Sys2Proof.Machine
end

section
/-! Frames: the judgement of a pulse of CS, and frames that reach no owner. -/

namespace Sys2Proof.Machine

/-! ### Bits and bytes (R184, R185) -/

/-- The eight bits of a byte, most significant first, make the byte. -/
theorem byteOfBits_getLsbD (b : Byte) : byteOfBits (b.getLsbD 7) (b.getLsbD 6) (b.getLsbD 5) (b.getLsbD 4)
    (b.getLsbD 3) (b.getLsbD 2) (b.getLsbD 1) (b.getLsbD 0) = b := by
  revert b
  decide

/-- The whole bytes clocked are the bytes sent. -/
theorem bytesOfBits_flatMap (l : List Byte) : bytesOfBits (l.flatMap bitsOfByte) = l := by
  induction l with
  | nil => rfl
  | cons b l ih =>
    rw [List.flatMap_cons]
    show byteOfBits _ _ _ _ _ _ _ _ :: bytesOfBits (l.flatMap bitsOfByte) = _
    rw [byteOfBits_getLsbD, ih]

/-! ### The judgement of a pulse (R185, R186) -/

/-- What is judged well formed has a length byte of at most 14, whole bytes enough and the check byte of its body. -/
theorem judgeBytes_eq_good {bs : List Byte} {code : Byte} {payload : List Byte} :
    judgeBytes bs = .good code payload ↔ ∃ n rest, bs = code :: n :: rest ∧ n.toNat ≤ 14 ∧ n.toNat + 1 ≤ rest.length
      ∧ rest.getD n.toNat 0#8 = crc8 (code :: n :: payload) ∧ payload = rest.take n.toNat := by
  match bs with
  | [] => simp [judgeBytes]
  | [_] => simp [judgeBytes]
  | c :: n :: rest =>
    unfold judgeBytes
    dsimp only
    constructor
    · intro h
      split at h
      · cases h
      split at h
      · cases h
      split at h
      · rename_i hn hl hc
        cases h
        exact ⟨n, rest, rfl, by omega, by omega, hc, rfl⟩
      · cases h
    · rintro ⟨m, r, e, hn, hl, hc, rfl⟩
      simp only [List.cons.injEq] at e
      obtain ⟨rfl, rfl, rfl⟩ := e
      rw [if_neg (by omega), if_neg (by omega), if_pos hc]

theorem judgeBytes_ne_noFrame (bs : List Byte) : judgeBytes bs ≠ .noFrame := by
  unfold judgeBytes
  split
  · split_ifs <;> simp
  · simp

theorem toNat_byteOf_length {l : List Byte} (h : l.length ≤ 14) : (byteOf l.length).toNat = l.length := by
  rw [byteOf, BitVec.toNat_ofNat]
  omega

/-- A request frame as sent is judged well formed, whatever follows it. -/
theorem judgeBytes_requestBytes (code : Byte) {payload : List Byte} (filler : List Byte) (h : payload.length ≤ 14) :
    judgeBytes (requestBytes code payload ++ filler) = .good code payload := by
  have hn := toNat_byteOf_length h
  refine judgeBytes_eq_good.2 ⟨byteOf payload.length,
    payload ++ (crc8 (code :: byteOf payload.length :: payload) :: filler), ?_, ?_, ?_, ?_, ?_⟩
  · simp [requestBytes]
  · omega
  · rw [hn, List.length_append, List.length_cons]; omega
  · rw [hn]; simp
  · rw [hn, List.take_left]

/-- What is judged well formed is a request frame as sent, with a filler. -/
theorem requestBytes_of_judgeBytes {bs : List Byte} {code : Byte} {payload : List Byte}
    (h : judgeBytes bs = .good code payload) :
    payload.length ≤ 14 ∧ ∃ filler, bs = requestBytes code payload ++ filler := by
  obtain ⟨n, rest, rfl, hn, hl, hc, rfl⟩ := judgeBytes_eq_good.1 h
  have hlen : (rest.take n.toNat).length = n.toNat := by
    rw [List.length_take]; omega
  refine ⟨by omega, rest.drop (n.toNat + 1), ?_⟩
  have hb : byteOf (rest.take n.toNat).length = n := by
    rw [hlen, byteOf]
    exact BitVec.ofNat_toNat ..
  have hlt : n.toNat < rest.length := by omega
  have hg : rest.getD n.toNat 0#8 = rest[n.toNat] := by simp [List.getD, hlt]
  unfold requestBytes
  rw [hb]
  dsimp only
  rw [← hc, hg]
  simp

/-! ### Pulses that reach no owner -/

variable {s : State}

theorem onPulse_handed (dt : Time) (p : Port) (judge : State → State) (h : s.sys.inReset = false)
    (hr : (s.ports.get p).receiving = true) :
    onPulse dt p judge s = .next (refreshPark (judge (csRise p (advance dt s)))) := by
  simp [onPulse, endPulse, h, hr]

theorem onPulse_inReset (dt : Time) (p : Port) (judge : State → State) (h : s.sys.inReset = true) :
    onPulse dt p judge s = .next ((advance dt s).withPins { s.pins with cs := s.pins.cs.set p false }) := by
  simp [onPulse, h]

theorem exec_frameError (dt : Time) (p : Port) (sck : Option (List Bool)) (s : State) :
    exec (.frameError dt p sck) s = onPulse dt p (takePulse p sck) s := rfl

theorem exec_frameInStarting (dt : Time) (p : Port) (sck : Option (List Bool)) (s : State) :
    exec (.frameInStarting dt p sck) s = onPulse dt p (takePulse p sck) s := rfl

theorem takePulse_error {p : Port} {sck : Option (List Bool)} (h : judgePulse sck = .error) (s : State) :
    takePulse p sck s = takeError p s := by
  simp only [takePulse, h]

theorem takePulse_good {p : Port} {sck : Option (List Bool)} {c : Byte} {l : List Byte}
    (h : judgePulse sck = .good c l) (s : State) : takePulse p sck s = takeFrame (ownerOf c) p c l s := by
  simp only [takePulse, h]

/-- A frame error in RUN is captured on its port alone (R186). -/
theorem takeError_run (p : Port) (h : s.sys.mode = .run) :
    takeError p s = setSlot p 0 (Reply.of .frameError) (s.modEvents p (EventRec.capture .frameError)) := by
  unfold takeError offerFrameError
  rw [if_neg (by simp [h]), wake_running h]

theorem takeError_starting (p : Port) (h : s.sys.mode = .starting) :
    takeError p s = setSlot p 0 (Reply.of .starting) s := if_pos h

/-- Every well-formed frame in STARTING is answered STARTING (R187). -/
theorem takeFrame_starting (o : Option Owner) (p : Port) (c : Byte) (l : List Byte) (h : s.sys.mode = .starting) :
    takeFrame o p c l s = setSlot p c (Reply.of .starting) s := if_pos h

/-- Settles O57. -/
theorem framesJudged : Obligations.FramesJudged := by
  refine ⟨⟨?sent, ?judged, ?noFrame, rfl⟩, ?error, fun dt p s h => ?pulse, ?starting, ?request, ?lost⟩
  case sent =>
    intro code payload filler h
    rw [judgePulse, bytesOfBits_flatMap, judgeBytes_requestBytes code filler h]
  case judged =>
    exact fun bits code payload h => requestBytes_of_judgeBytes h
  case noFrame =>
    intro sck
    cases sck with
    | none => exact ⟨fun _ => rfl, fun _ => rfl⟩
    | some bits => exact ⟨fun h => absurd h (judgeBytes_ne_noFrame _), fun h => by cases h⟩
  case error =>
    intro dt p sck s h hj
    rw [exec_frameError, onPulse_receiving dt p _ h, takePulse_error hj, takeError_run p (by exact h.1.2)]
    rfl
  case pulse =>
    rw [exec_frameError, onPulse_receiving dt p _ h]
    rfl
  case starting =>
    intro dt p sck s hm h hr
    refine ⟨fun c l hj => ?_, fun hj => ?_⟩
    · rw [exec_frameInStarting, onPulse_handed dt p _ h hr, takePulse_good hj,
        takeFrame_starting _ p c l (by exact hm)]
      rfl
    · rw [exec_frameInStarting, onPulse_handed dt p _ h hr, takePulse_error hj, takeError_starting p (by exact hm)]
      rfl
  case request =>
    intro dt p code payload c s hc hm h hr hl
    obtain ⟨f, e⟩ := exec_request hc s
    rw [e, onRequest, onPulse_handed dt p _ h hr, if_pos hl, takeFrame_starting _ p code payload (by exact hm)]
    rfl
  case lost =>
    intro dt p code payload c s hc h
    obtain ⟨f, e⟩ := exec_request hc s
    rw [e, onRequest, onPulse_inReset dt p _ h]

end Sys2Proof.Machine
end

section
/-! Submission to the arbiter (R13 to R16). -/

namespace Sys2Proof.Machine

/-! ### The order of the queue (R13) -/

theorem Cls.rank_inj {a b : Cls} (h : a.rank = b.rank) : a = b := by
  revert h
  cases a <;> cases b <;> decide

theorem entryBefore_iff (a b : Entry) :
    entryBefore a b = true ↔ b.cls.rank < a.cls.rank ∨ a.cls = b.cls ∧ a.seq.toNat ≤ b.seq.toNat := by
  simp [entryBefore]

theorem entryBefore_total {a b : Entry} (h : ¬ entryBefore a b = true) : entryBefore b a = true := by
  rw [entryBefore_iff] at h ⊢
  rcases Nat.lt_trichotomy a.cls.rank b.cls.rank with k | k | k
  · exact .inl k
  · have e := Cls.rank_inj k
    exact .inr ⟨e.symm, Nat.le_of_lt (Nat.lt_of_not_le fun m => h (.inr ⟨e, m⟩))⟩
  · exact absurd (.inl k) h

theorem entryBefore_trans {a b c : Entry} (h : entryBefore a b = true) (k : entryBefore b c = true) :
    entryBefore a c = true := by
  rw [entryBefore_iff] at *
  rcases h with h | ⟨h, hs⟩
  · rcases k with k | ⟨k, -⟩
    · exact .inl (k.trans h)
    · exact .inl (k ▸ h)
  · rcases k with k | ⟨k, ks⟩
    · exact .inl (h ▸ k)
    · exact .inr ⟨h.trans k, hs.trans ks⟩

theorem insertEntry_perm (e : Entry) (q : List Entry) : (insertEntry e q).Perm (e :: q) := by
  induction q with
  | nil => exact .refl _
  | cons x xs ih =>
    unfold insertEntry
    split
    · exact (ih.cons x).trans (.swap e x xs)
    · exact .refl _

/-- An insertion keeps the order of the queue (R13). -/
theorem insertEntry_pairwise (e : Entry) {q : List Entry} (h : q.Pairwise fun a b => entryBefore a b = true) :
    (insertEntry e q).Pairwise fun a b => entryBefore a b = true := by
  induction q with
  | nil => exact List.pairwise_singleton _ _
  | cons x xs ih =>
    obtain ⟨hx, hxs⟩ := List.pairwise_cons.1 h
    unfold insertEntry
    split
    · rename_i k
      refine List.pairwise_cons.2 ⟨fun y hy => ?_, ih hxs⟩
      rcases List.mem_cons.1 ((insertEntry_perm e xs).mem_iff.1 hy) with rfl | m
      · exact k
      · exact hx y m
    · rename_i k
      have ke := entryBefore_total k
      refine List.pairwise_cons.2 ⟨fun y hy => ?_, h⟩
      rcases List.mem_cons.1 hy with rfl | m
      · exact ke
      · exact entryBefore_trans ke (hx y m)

/-! ### Enqueuing (R14) -/

variable {s : State}

theorem enqueue_new {r : Request} (h : s.entry? r.act = none) : enqueue r s = (scan (joinQueue r s), .queued) := by
  simp only [enqueue, h]

theorem enqueue_replace {r : Request} {e : Entry} (h : s.entry? r.act = some e) (hr : e.cls.rank ≤ r.cls.rank) :
    enqueue r s = (scan (replaceEntry r e s), .queued) := by
  simp only [enqueue, h, if_pos hr]

theorem enqueue_overruled {r : Request} {e : Entry} (h : s.entry? r.act = some e) (hr : r.cls.rank < e.cls.rank) :
    enqueue r s = (s, .overruled) := by
  simp only [enqueue, h, if_neg (Nat.not_le.2 hr)]

theorem Cls.rank_le_crash (c : Cls) : c.rank ≤ Cls.crash.rank := by
  cases c <;> decide

/-- A class-4 request is never overruled (R14). -/
theorem enqueue_crash {r : Request} (h : r.cls = .crash) : (enqueue r s).2 = .queued := by
  cases k : s.entry? r.act with
  | none => rw [enqueue_new k]
  | some e => rw [enqueue_replace k (by rw [h]; exact e.cls.rank_le_crash)]

/-! ### Submission (R15, R16) -/

theorem submit_idle {r : Request} (h : s.drive? r.act = none) : submit r s = enqueue r s := by
  simp only [submit, h]

theorem submit_same_dir {r : Request} {d : Drive} (h : s.drive? r.act = some d) (hd : d.dir = r.dir) :
    submit r s = (mergeDrive r s, .merged) := by
  simp only [submit, h, if_pos hd]

/-- Against a running drive of another direction a request is enqueued, unless it preempts. -/
theorem submit_other_dir {r : Request} {d : Drive} (h : s.drive? r.act = some d) (hd : d.dir ≠ r.dir)
    (hp : r.cls ≠ .crash ∨ r.dir ≠ .unlock ∨ ∀ l, r.act ≠ .lock l) : submit r s = enqueue r s := by
  simp only [submit, h, if_neg hd]
  split
  · rename_i l hl
    refine if_neg fun k => ?_
    rcases hp with hc | hu | ha
    · exact hc k.1
    · exact hu k.2
    · exact ha l hl
  · rfl

/-- A class-4 UNLOCK preempts a running LOCK or DEADLOCK drive (R16). -/
theorem submit_preempts {r : Request} {l : Latch} {d : Drive} (ha : r.act = .lock l) (hc : r.cls = .crash)
    (hu : r.dir = .unlock) (h : s.drive? (.lock l) = some d) (hd : d.dir ≠ .unlock) :
    submit r s = enqueue r (preempt l d s) := by
  simp only [submit, ha, h, hu, if_neg hd, hc, and_self, if_true]

/-! ### Preemption (R16) -/

@[simp] theorem setLatchState_arb (l : Latch) (v : LatchState) (s : State) : (setLatchState l v s).arb = s.arb := by
  unfold setLatchState
  dsimp only
  split
  · rfl
  · split
    · rfl
    · exact (Records.storeWrite _ _ _).arb

theorem reconcileLatch_eq (l : Latch) (s : State) : reconcileLatch l s =
    match (s.latches.get l).position, (s.latches.get l).state with
    | .locked, .unlocked => setLatchState l .locked s
    | .unlocked, .locked => setLatchState l .unlocked s
    | .unlocked, .deadlocked => setLatchState l .unlocked s
    | _, _ => s := by
  unfold reconcileLatch
  dsimp only
  cases (s.latches.get l).position <;> cases (s.latches.get l).state <;> rfl

@[simp] theorem reconcileLatch_arb (l : Latch) (s : State) : (reconcileLatch l s).arb = s.arb := by
  rw [reconcileLatch_eq]
  split
  · exact setLatchState_arb _ _ _
  · exact setLatchState_arb _ _ _
  · exact setLatchState_arb _ _ _
  · rfl

/-- A drive leaves the running list and its actuator comes under a brake hold. -/
theorem addHold_removeDrive (a : Actuator) (s : State) : addHold a (removeDrive a s) = s.withArb { s.arb with
    running := s.arb.running.filter (·.act != a)
    holds := if s.held a then s.arb.holds else s.arb.holds ++ [a] } := by
  unfold addHold
  have e : (removeDrive a s).held a = s.held a := rfl
  rw [e]
  split <;> rfl

theorem drive?_of_running {a : Actuator} {q : List Drive} (h : s.arb.running = q.filter (·.act != a)) :
    s.drive? a = none := by
  unfold State.drive?
  rw [h, List.find?_eq_none]
  intro d hd
  have k := (List.mem_filter.1 hd).2
  simpa using k

/-- What a preemption leaves (R16). -/
theorem preempt_eq (l : Latch) (d : Drive) (s : State) : preempt l d s =
    settleList (.lock l) .overruled d.waiting (reconcileLatch l
      (((s.withArb { s.arb with
          running := s.arb.running.filter (·.act != .lock l)
          holds := if s.held (.lock l) then s.arb.holds else s.arb.holds ++ [.lock l] }).modLatch l fun x =>
        { x with driveDue := none, settleDue := none, openLoad := false, brakeDue := some (s.now + msec 20) }).setStage
          (.lock l) .brake)) := by
  unfold preempt
  rw [addHold_removeDrive]
  rfl

theorem preempt_drive? (l : Latch) (d : Drive) (s : State) : (preempt l d s).drive? (.lock l) = none := by
  refine drive?_of_running (q := s.arb.running) ?_
  rw [preempt_eq, (Records.settleList _ _ _ _).arb, reconcileLatch_arb]
  rfl

/-- Settles O14. -/
theorem drivesSubmitted : Obligations.DrivesSubmitted := by
  refine ⟨fun e q h => ⟨insertEntry_pairwise e h, insertEntry_perm e q⟩, entryBefore_iff, ?enqueued,
    fun r d s h hd => submit_same_dir h hd, ?preempted, reconcileLatch_eq, rfl⟩
  case enqueued =>
    intro r s h
    have hsub : submit r s = enqueue r s := by
      cases hd : s.drive? r.act with
      | none => exact submit_idle hd
      | some d => exact submit_other_dir hd (h d hd).1 (h d hd).2
    rw [hsub]
    exact ⟨fun k => enqueue_new k, fun e k hr => enqueue_replace k hr, fun e k hr => enqueue_overruled k hr⟩
  case preempted =>
    intro r l d s ha hc hu h hd
    have hsub := submit_preempts ha hc hu h hd
    refine ⟨preempt l d s, preempt_eq l d s, preempt_drive? l d s, ?_, ?_⟩
    · rw [hsub, submit_idle (by rw [ha]; exact preempt_drive? l d s)]
    · rw [hsub, enqueue_crash hc]

end Sys2Proof.Machine
end

section
/-! The grant scan (R18 to R21), the grants and the duty of a window (R77). -/

namespace Sys2Proof.Machine

variable {s : State}

/-! ### The walk of the queue (R19 to R21) -/

theorem walk_busy {e : Entry} (rest : List Entry) (h : s.busy e = true) : walk (e :: rest) s = walk rest s := if_pos h

theorem walk_hot {e : Entry} (rest : List Entry) (hb : s.busy e = false) (hh : s.hotHeld e = true) :
    walk (e :: rest) s = walk rest (reportHold e s) := by
  simp only [walk, hb, hh, Bool.false_eq_true, if_true, if_false]

theorem walk_over {e : Entry} (rest : List Entry) (hb : s.busy e = false) (hh : s.hotHeld e = false)
    (ho : s.overHeld e = true) : walk (e :: rest) s = walk rest s := by
  simp only [walk, hb, hh, ho, Bool.false_eq_true, if_true, if_false]

/-- The state in which the walk judges an eligible entry: a class-4 entry that does not fit has window drives revoked
for it (R21). -/
def State.roomFor (s : State) (e : Entry) : State :=
  if s.fits e then s else if e.cls = .crash then revokeUntil (·.fits e) s.youngestWindows s else s

theorem walk_eligible {e : Entry} (rest : List Entry) (hb : s.busy e = false) (hh : s.hotHeld e = false)
    (ho : s.overHeld e = false) : walk (e :: rest) s =
      if (s.roomFor e).fits e || (s.roomFor e).starving e then walk rest (grantEntry e (s.roomFor e))
      else s.roomFor e := by
  simp only [walk, hb, hh, ho, Bool.false_eq_true, if_false, State.roomFor]
  rfl

/-- An eligible entry is granted when it fits or would starve. -/
theorem walk_granted {e : Entry} (rest : List Entry) (hb : s.busy e = false) (hh : s.hotHeld e = false)
    (ho : s.overHeld e = false) (h : (s.roomFor e).fits e = true ∨ (s.roomFor e).starving e = true) :
    walk (e :: rest) s = walk rest (grantEntry e (s.roomFor e)) := by
  rw [walk_eligible rest hb hh ho, if_pos (by simpa using h)]

/-- Otherwise it ends the walk. -/
theorem walk_ends {e : Entry} (rest : List Entry) (hb : s.busy e = false) (hh : s.hotHeld e = false)
    (ho : s.overHeld e = false) (hf : (s.roomFor e).fits e = false) (hs : (s.roomFor e).starving e = false) :
    walk (e :: rest) s = s.roomFor e := by
  rw [walk_eligible rest hb hh ho, hf, hs]
  rfl

theorem roomFor_fits {e : Entry} (h : s.fits e = true) : s.roomFor e = s := if_pos h

theorem roomFor_crash {e : Entry} (h : s.fits e = false) (hc : e.cls = .crash) :
    s.roomFor e = revokeUntil (fun t => t.fits e) s.youngestWindows s := by
  simp only [State.roomFor, h, hc, Bool.false_eq_true, if_true, if_false]

theorem roomFor_other {e : Entry} (h : s.fits e = false) (hc : e.cls ≠ .crash) : s.roomFor e = s := by
  simp only [State.roomFor, h, hc, Bool.false_eq_true, if_false]

/-- The starvation guard (R20). -/
theorem starving_iff {e : Entry} : s.starving e = true ↔
    actIsWindow e.act = false ∧ s.arb.running = [] ∧ s.supply.band ≠ .under := by
  simp [State.starving, and_assoc]

theorem starving_eq_false {e : Entry} (h : actIsWindow e.act = true ∨ s.arb.running ≠ []) : s.starving e = false := by
  rw [← Bool.not_eq_true, starving_iff]
  rintro ⟨hw, hr, -⟩
  rcases h with k | k
  · rw [hw] at k; cases k
  · exact k hr

/-- An entry that fits is granted. -/
theorem walk_fits {e : Entry} (rest : List Entry) (hb : s.busy e = false) (hh : s.hotHeld e = false)
    (ho : s.overHeld e = false) (hf : s.fits e = true) : walk (e :: rest) s = walk rest (grantEntry e s) := by
  have hr := roomFor_fits hf
  rw [walk_granted rest hb hh ho (.inl (by rw [hr, hf])), hr]

/-- An entry of class 1 to 3 that does not fit is granted when nothing runs and it is no window's. -/
theorem walk_starving {e : Entry} (rest : List Entry) (hb : s.busy e = false) (hh : s.hotHeld e = false)
    (ho : s.overHeld e = false) (hf : s.fits e = false) (hc : e.cls ≠ .crash) (hs : s.starving e = true) :
    walk (e :: rest) s = walk rest (grantEntry e s) := by
  have hr := roomFor_other hf hc
  rw [walk_granted rest hb hh ho (.inr (by rw [hr, hs])), hr]

/-- Any other entry that does not fit ends the walk. -/
theorem walk_blocked {e : Entry} (rest : List Entry) (hb : s.busy e = false) (hh : s.hotHeld e = false)
    (ho : s.overHeld e = false) (hf : s.fits e = false) (hc : e.cls ≠ .crash)
    (h : actIsWindow e.act = true ∨ s.arb.running ≠ []) : walk (e :: rest) s = s := by
  have hr := roomFor_other hf hc
  rw [walk_ends rest hb hh ho (by rw [hr, hf]) (by rw [hr, starving_eq_false h]), hr]

theorem overHeld_eq_false {e : Entry} (h : s.supply.band = .over → actIsWindow e.act = false) :
    s.overHeld e = false := by
  cases hw : actIsWindow e.act with
  | false => simp [State.overHeld, hw]
  | true =>
    have hb : s.supply.band ≠ .over := fun k => by rw [h k] at hw; cases hw
    simp [State.overHeld, hb]

theorem overHeld_window {e : Entry} (h : s.supply.band = .over) (hw : actIsWindow e.act = true) :
    s.overHeld e = true := by
  simp [State.overHeld, h, hw]

theorem hotHeld_crash {e : Entry} (h : e.cls = .crash) : s.hotHeld e = false := by
  unfold State.hotHeld
  split
  · simp [h]
  · rfl

theorem scan_under (h : s.supply.band = .under) : scan s = s := if_pos h

theorem scan_walks (h : s.supply.band ≠ .under) : scan s = walk s.arb.queue s := if_neg h

/-! ### Busy, HOT and fit (R5, R19, R20) -/

theorem busy_iff {e : Entry} : s.busy e = true ↔ s.drive? e.act ≠ none ∨ e.act ∈ s.arb.holds := by
  simp [State.busy, State.held, Option.isSome_iff_ne_none]

theorem hotHeld_iff {e : Entry} : s.hotHeld e = true ↔
    e.cls ≠ .crash ∧ ∃ l, e.act = .lock l ∧ (s.latches.get l).hot = true := by
  unfold State.hotHeld
  split
  · rename_i l hl
    simp [hl]
  · rename_i hn
    simp only [Bool.false_eq_true, false_iff]
    rintro ⟨-, l, hl, -⟩
    exact hn l hl

theorem fits_iff {e : Entry} : s.fits e = true ↔
    if actIsWindow e.act = true then s.windowUnits + 8 ≤ s.supply.budget ∧ s.supply.band = .normal
    else s.units + actCost e.act ≤ s.supply.budget := by
  unfold State.fits
  split <;> simp

/-- Every running window drive costs 4 units (R5). -/
theorem windowUnits_eq (s : State) :
    s.windowUnits = 4 * (s.arb.running.filter fun d => actIsWindow d.act).length := by
  have hcost : ∀ d ∈ s.arb.running.filter fun d => actIsWindow d.act, actCost d.act = 4 := by
    intro d hd
    have hw := (List.mem_filter.1 hd).2
    cases ha : d.act <;> simp [ha, actIsWindow] at hw
    rfl
  unfold State.windowUnits
  rw [List.map_congr_left hcost, List.map_const', List.sum_replicate, smul_eq_mul, Nat.mul_comm]

/-! ### Grants (R20, R28, R53, R57, R77) -/

theorem startRun_arb (w : Win) (d : WDir) (s : State) : (startRun w d s).arb = s.arb := by
  cases d <;> rfl

theorem startDrive_arb (e : Entry) (s : State) : (startDrive e s).arb = s.arb := by
  unfold startDrive
  split
  · rfl
  · rfl
  · rfl
  · exact startRun_arb _ _ _

/-- The state in which the owner of an entry is told of the grant: the entry is gone and its drive runs (R20). -/
def grantedState (e : Entry) (s : State) : State := s.withArb { s.arb with
  queue := s.arb.queue.filter (·.act != e.act)
  running := s.arb.running ++ [{ act := e.act, dir := e.dir, cls := e.cls, source := e.source, seq := e.seq
                                 waiting := e.waiting, mode := e.mode }]
  seq := if (s.arb.queue.filter (·.act != e.act)).isEmpty then 0 else s.arb.seq }

theorem grantEntry_eq (e : Entry) (s : State) : grantEntry e s = startDrive e (grantedState e s) := rfl

theorem setStage_stage (s : State) (a : Actuator) (x : Stage) : (s.setStage a x).stages.get a = x :=
  Stages.get_set_self _ _ _

theorem grantLock_stage (l : Latch) (d : Dir) (s : State) : (grantLock l d s).stages.get (.lock l) = .drive d := by
  unfold grantLock energizeLock
  rw [setStage_stage]

theorem grantLock_latch (l : Latch) (d : Dir) (s : State) : (grantLock l d s).latches.get l =
    { ({ s.latches.get l with driveTime := s.cfg.lockDriveTime, retries := s.cfg.retryCount, attempts := 0 } :
        LatchRec).heatUp s.now with
      driveDue := some (s.now + s.cfg.lockDriveTime), settleDue := none, openLoad := false } := by
  cases l <;> rfl

theorem grantChild_stage (c : Side) (d : Dir) (s : State) : (grantChild c d s).stages.get (.child c) = .drive d := by
  unfold grantChild energizeChild
  rw [setStage_stage]

theorem grantChild_rec (c : Side) (d : Dir) (s : State) : (grantChild c d s).child.recs.get c =
    { s.child.recs.get c with retries := s.cfg.retryCount, attempts := 0, driveDue := some (s.now + msec 120)
                              settleDue := none, openLoad := false } := by
  cases c <;> rfl

theorem startRun_stage (w : Win) (d : WDir) (s : State) : (startRun w d s).stages.get (.window w) = .drive d.dir := by
  cases d <;> cases w <;> rfl

theorem grantRelease_release (s : State) : (grantRelease s).release =
    { pulseDue := some (s.now + s.cfg.releasePulse)
      watchDue := if (s.latches.get .tg).ajar = .opened then none else some (s.now + sec 1)
      last := if (s.latches.get .tg).ajar = .opened then .opened else s.release.last } := rfl

theorem startDrive_window {e : Entry} {w : Win} {d : WDir} (hw : e.act = .window w) (hd : e.dir = d.dir) (s : State) :
    startDrive e s = grantWindow w d e.mode e.source e.cls s := by
  cases d <;> simp only [startDrive, hw, hd, WDir.dir]

/-- The record of a window at the start of a run (R77); an UP run reads the seal distance. -/
theorem startRun_window (w : Win) (d : WDir) (s : State) : ∃ x, (startRun w d s).windows.get w =
    { s.windows.get w with
      run := if (s.windows.get w).run = .reversing then .reversing
             else (match d with | .up => .runUp | .down => .runDown)
      nextDir := none, runDue := some (s.now + sec 8), brakeDue := none, driveFrom := s.now, edges := 0
      lastEdge := s.now, wrong := 0, noPulseArmed := true, sealDist := x } := by
  cases d
  · refine ⟨s.cfg.pseal, ?_⟩
    cases w <;> rfl
  · refine ⟨(s.windows.get w).sealDist, ?_⟩
    cases w <;> rfl

/-! ### Duty (R77) -/

/-- The duty `t` after the entry into DRIVE. -/
def rampDuty (t : Time) : Nat := if msec 80 ≤ t then 100 else softStart t

theorem rampDuty_range (t : Time) : 40 ≤ rampDuty t ∧ rampDuty t ≤ 100 := by
  unfold rampDuty
  split
  · decide
  · exact softStart_range t

theorem rampDuty_mono {a b : Time} (h : a ≤ b) : rampDuty a ≤ rampDuty b := by
  by_cases hb : msec 80 ≤ b
  · rw [rampDuty, rampDuty, if_pos hb]
    exact (rampDuty_range a).2
  · have ha : ¬ msec 80 ≤ a := fun k => hb (k.trans h)
    rw [rampDuty, rampDuty, if_neg ha, if_neg hb]
    exact softStart_mono h

theorem duty_drive {w : Win} {d : Dir} (h : s.stages.get (.window w) = .drive d) (t : Time) :
    (s.withNow ((s.windows.get w).driveFrom + t)).duty w = rampDuty t := by
  have e : s.stages.windows.get w = .drive d := h
  simp only [State.duty, State.withNow_stages, State.withNow_now, State.withNow_windows, e,
    Nat.add_sub_cancel_left, rampDuty]

theorem duty_undriven {w : Win} (h : ∀ d, s.stages.get (.window w) ≠ .drive d) : s.duty w = 0 := by
  unfold State.duty
  split
  · rename_i d e
    exact absurd e (h d)
  · rfl

/-- Settles O15. -/
theorem scanGrantsHead : Obligations.ScanGrantsHead := by
  refine ⟨fun s h => scan_under h, ?head, ?headBlocked, fun s h => scan_walks h, fun s => rfl, ?passedOver, ?eligible,
    fun e s => ⟨busy_iff, hotHeld_iff, fits_iff⟩, ⟨fun _ => rfl, fun _ => rfl, rfl, fun _ => rfl⟩,
    fun s => ⟨rfl, windowUnits_eq s⟩, ?crash, ?grant, ?duty⟩
  case head =>
    intro e rest s hn hq hb hh h
    have ho : s.overHeld e = false := overHeld_eq_false fun k => by rw [hn] at k; cases k
    rw [scan_walks (by simp [hn]), hq]
    cases hf : s.fits e with
    | true => exact walk_fits rest hb hh ho hf
    | false =>
      rw [hf] at h
      obtain ⟨hc, hw, hr⟩ := h.resolve_left (by simp)
      exact walk_starving rest hb hh ho hf hc (starving_iff.2 ⟨hw, hr, by simp [hn]⟩)
  case headBlocked =>
    intro e rest s hn hq hb hh hc hf h
    rw [scan_walks (by simp [hn]), hq]
    exact walk_blocked rest hb hh (overHeld_eq_false fun k => by rw [hn] at k; cases k) hf hc h
  case passedOver =>
    intro e rest s
    refine ⟨fun h => walk_busy rest h, fun hb hh hr => ?_, fun hb hh hr => ?_, fun hb hh ho hw => ?_,
      fun hb hh ho hw hf => ?_⟩
    · rw [walk_hot rest hb hh, reportHold, if_pos hr]
    · rw [walk_hot rest hb hh, reportHold, if_neg (by simp [hr])]
    · exact walk_over rest hb hh (overHeld_window ho hw)
    · exact walk_fits rest hb hh (overHeld_eq_false fun _ => hw) hf
  case eligible =>
    intro e rest s hu hb hh ho
    have ho' := overHeld_eq_false ho
    exact ⟨fun hf => walk_fits rest hb hh ho' hf,
      fun hf hc hw hr => walk_starving rest hb hh ho' hf hc (starving_iff.2 ⟨hw, hr, hu⟩),
      fun hf hc h => walk_blocked rest hb hh ho' hf hc h⟩
  case crash =>
    intro e rest s hc hw hu hb hf
    have hh := hotHeld_crash (s := s) hc
    have ho := overHeld_eq_false (s := s) (e := e) fun _ => hw
    refine ⟨s.roomFor e, roomFor_crash hf hc, fun h => walk_granted rest hb hh ho (.inl h), fun h hr => ?_,
      fun h hr => walk_ends rest hb hh ho h (starving_eq_false (.inr hr))⟩
    refine walk_granted rest hb hh ho (.inr (starving_iff.2 ⟨hw, hr, ?_⟩))
    rw [roomFor_crash hf hc, (revokeUntil_supply _ _ _).1]
    exact hu
  case grant =>
    intro e s
    rw [grantEntry_eq]
    refine ⟨_, rfl, startDrive_arb _ _, fun l hl => ?_, fun c hc => ?_, fun hr => ?_, fun w hw hd => ?_⟩
    · have hs : startDrive e (grantedState e s) = grantLock l e.dir (grantedState e s) := by rw [startDrive, hl]
      rw [hs, grantLock_stage, grantLock_latch]
      exact ⟨rfl, rfl, rfl, rfl⟩
    · have hs : startDrive e (grantedState e s) = grantChild c e.dir (grantedState e s) := by rw [startDrive, hc]
      rw [hs, grantChild_stage, grantChild_rec]
      exact ⟨rfl, rfl, rfl, rfl⟩
    · have hs : startDrive e (grantedState e s) = grantRelease (grantedState e s) := by rw [startDrive, hr]
      rw [hs]
      refine ⟨rfl, rfl, fun ha => ?_, fun ha => ?_⟩
      · rw [grantRelease_release, if_neg (by simp [grantedState, ha])]
        rfl
      · rw [grantRelease_release]
        exact ⟨if_pos ha, if_pos ha⟩
    · obtain ⟨d, hd⟩ : ∃ d : WDir, e.dir = d.dir := hd.elim (fun h => ⟨.up, h⟩) fun h => ⟨.down, h⟩
      obtain ⟨x, hx⟩ := startRun_window w d ((grantedState e s).modWindow w fun r =>
        { r with mode := e.mode, source := some e.source, cls := some e.cls
                 p := if r.norm = .learned then r.p else 1024 })
      rw [modWindow_get] at hx
      rw [startDrive_window hw hd, grantWindow, startRun_stage, hx, hd]
      refine ⟨rfl, rfl, rfl, rfl, rfl, rfl, rfl, rfl, rfl, fun h => if_neg h, fun h => if_pos h, fun h => ?_⟩
      refine (if_neg h).trans ?_
      cases d <;> rfl
  case duty =>
    intro w s
    refine ⟨fun d a b hs => ?_, duty_undriven⟩
    simp only [duty_drive hs]
    exact ⟨rfl, (rampDuty_range a).1, (rampDuty_range a).2, fun h => if_pos h, rampDuty_mono⟩

end Sys2Proof.Machine
end

section
/-! Revocation (R21, R23, R82) and the order in which a new V_f is handed on (R2, R4). -/

namespace Sys2Proof.Machine

variable {s : State}

/-! ### Revocation one drive at a time -/

theorem revokeUntil_enough {f : State → Bool} (w : Win) (ws : List Win) (h : f s = true) :
    revokeUntil f (w :: ws) s = s := if_pos h

theorem revokeUntil_more {f : State → Bool} (w : Win) (ws : List Win) (h : f s = false) :
    revokeUntil f (w :: ws) s = revokeUntil f ws (revokeWindow w s) := if_neg (by simp [h])

/-- Outside NORMAL every running window drive is revoked (R23). -/
theorem revokeUntil_all {f : State → Bool} (hf : ∀ t, t.supply.band ≠ .normal → f t = false) (ws : List Win)
    (h : s.supply.band ≠ .normal) : revokeUntil f ws s = ws.foldl (fun x w => revokeWindow w x) s := by
  induction ws generalizing s with
  | nil => rfl
  | cons w ws ih =>
    rw [revokeUntil_more w ws (hf s h), List.foldl_cons]
    exact ih (by rw [(revokeWindow_supply w s).1]; exact h)

/-- In NORMAL the band takes no part in the test of a revocation. -/
theorem revokeUntil_congr_normal {f g : State → Bool} (hf : ∀ t, t.supply.band = .normal → f t = g t) (ws : List Win)
    (h : s.supply.band = .normal) : revokeUntil f ws s = revokeUntil g ws s := by
  induction ws generalizing s with
  | nil => rfl
  | cons w ws ih =>
    unfold revokeUntil
    rw [hf s h, ih (by rw [(revokeWindow_supply w s).1]; exact h)]

theorem revokeForSupply_outside (h : s.supply.band ≠ .normal) :
    revokeForSupply s = s.youngestWindows.foldl (fun x w => revokeWindow w x) s := by
  refine revokeUntil_all (fun t ht => ?_) _ h
  have hb : (t.supply.band == .normal) = false := by simpa using ht
  rw [hb]
  rfl

theorem revokeForSupply_normal (h : s.supply.band = .normal) : revokeForSupply s =
    revokeUntil (fun x => decide (x.windowUnits + 4 ≤ x.supply.budget)) s.youngestWindows s := by
  refine revokeUntil_congr_normal (fun t ht => ?_) _ h
  rw [ht]
  rfl

/-- The window of a drive, if it is a window's. -/
def Drive.window? (d : Drive) : Option Win :=
  match d.act with
  | .window w => some w
  | _ => none

theorem youngestWindows_eq (s : State) : s.youngestWindows = (s.arb.running.filterMap Drive.window?).reverse := rfl

theorem youngestWindows_append {ds : List Drive} {d : Drive} (h : s.arb.running = ds ++ [d]) :
    s.youngestWindows = d.window?.toList ++ (s.withArb { s.arb with running := ds }).youngestWindows := by
  rw [youngestWindows_eq, youngestWindows_eq, h, List.filterMap_append, List.reverse_append]
  show ([d].filterMap Drive.window?).reverse ++ _ = _
  cases hd : d.window? <;> simp [hd]

theorem window?_of_window {d : Drive} {w : Win} (h : d.act = .window w) : d.window? = some w := by
  simp only [Drive.window?, h]

theorem window?_of_other {d : Drive} (h : ∀ w, d.act ≠ .window w) : d.window? = none := by
  unfold Drive.window?
  split
  · rename_i w hw
    exact absurd hw (h w)
  · rfl

/-! ### The band and B handed on (R2, R4; log 19) -/

theorem handBand_same {b : Band} (h : s.supply.band = b) : handBand b s = s := if_pos h

theorem offer_band (e : Ev) (s : State) : (offer e s).supply.band = s.supply.band := (Records.offer e s).band

theorem handBand_normal {b : Band} (h : s.supply.band ≠ b) (hn : s.supply.band = .normal) :
    handBand b s = scan (offer .supplyBand s) := by
  simp only [handBand, if_neg h, offer_band, if_pos hn]

theorem handBand_outside {b : Band} (h : s.supply.band ≠ b) (hn : s.supply.band ≠ .normal) : handBand b s =
    scan (s.youngestWindows.foldl (fun x w => revokeWindow w x) (offer .supplyBand s)) := by
  have hy : (offer .supplyBand s).youngestWindows = s.youngestWindows := by
    rw [youngestWindows_eq, youngestWindows_eq, (Records.offer _ _).arb]
  simp only [handBand, if_neg h, offer_band, if_neg hn]
  rw [revokeForSupply_outside (by rw [offer_band]; exact hn), hy]

theorem handBudget_same {b : Nat} (h : s.supply.budget = b) : handBudget b s = s := if_pos h

theorem handBudget_rise {b : Nat} (h : b < s.supply.budget) : handBudget b s = scan s := by
  unfold handBudget
  rw [if_neg (by omega), if_neg (by omega)]

theorem handBudget_fall {b : Nat} (h : s.supply.budget < b) : handBudget b s = scan (revokeForSupply s) := by
  unfold handBudget
  rw [if_neg (by omega), if_pos h]

/-! ### A new V_f marks the run computations (R96) -/

theorem markSupply_fields (s : State) : (markSupply s).arb = s.arb ∧ (markSupply s).events = s.events
    ∧ (markSupply s).stages = s.stages ∧ (markSupply s).windows = s.windows ∧ (markSupply s).supply = s.supply := by
  unfold markSupply
  split
  · exact ⟨rfl, rfl, rfl, rfl, rfl⟩
  · exact ⟨rfl, rfl, rfl, rfl, rfl⟩

/-- A new V_f outside 10500 to 15500 mV clears the supply in range of every run computation. -/
theorem markSupply_pinch {v : Nat} (h : s.supply.vf = some v) (w : Win) : (markSupply s).pinch.get w =
    { s.pinch.get w with run := (s.pinch.get w).run.map fun r =>
        { r with inRange := r.inRange && decide (10500 ≤ v ∧ v ≤ 15500) } } := by
  have hr : supplyInRange s.supply.vf = decide (10500 ≤ v ∧ v ≤ 15500) := by
    rw [h, Bool.decide_and]
    rfl
  unfold markSupply
  rw [hr]
  cases decide (10500 ≤ v ∧ v ≤ 15500) with
  | true => simp
  | false =>
    simp only [Bool.and_false]
    cases w <;> rfl

/-! ### One revocation (R23, R82; log 13) -/

theorem Wins.set_eq_self {α : Type} {t : Wins α} {w : Win} {x : α} (h : t.get w = x) : t.set w x = t := by
  subst h
  cases w <;> rfl

@[simp] theorem setStage_windows (a : Actuator) (x : Stage) (s : State) : (s.setStage a x).windows = s.windows := rfl

@[simp] theorem setComfort_windows (w : Win) (b : Bool) (s : State) : (s.setComfort w b).windows = s.windows := rfl

@[simp] theorem endRun_windows (w : Win) (s : State) : (endRun w s).windows = s.windows := rfl

/-- The bridge of a window brakes, for 40 ms unless it braked before. -/
theorem brakeWindow_stages (w : Win) (s : State) : (brakeWindow w s).stages = s.stages.set (.window w) .brake := by
  by_cases h : s.stages.get (.window w) = .brake
  · have e : s.stages.windows.get w = .brake := h
    have k : s.stages.set (.window w) .brake = s.stages := by
      show { s.stages with windows := s.stages.windows.set w .brake } = _
      rw [Wins.set_eq_self e]
    rw [k]
    simp only [brakeWindow, e]
  · rw [brakeWindow_of_ne w s h]
    rfl

theorem brakeWindow_window (w : Win) (s : State) : (brakeWindow w s).windows.get w = { s.windows.get w with
    brakeDue := if s.stages.get (.window w) = .brake then (s.windows.get w).brakeDue else some (s.now + msec 40) } := by
  by_cases h : s.stages.get (.window w) = .brake
  · have e : s.stages.windows.get w = .brake := h
    rw [if_pos h]
    simp only [brakeWindow, e]
  · rw [if_neg h, brakeWindow_of_ne w s h, setStage_windows, modWindow_get]

theorem brakeWindow_window_ne {w v : Win} (h : v ≠ w) (s : State) :
    (brakeWindow w s).windows.get v = s.windows.get v := by
  unfold brakeWindow
  split
  · rfl
  · rw [setStage_windows, modWindow_get_ne _ _ h]

theorem brakeWindow_keeps (w : Win) (s : State) : (brakeWindow w s).pinch = s.pinch
    ∧ (brakeWindow w s).comfort = s.comfort ∧ (brakeWindow w s).latches = s.latches := by
  unfold brakeWindow
  split <;> exact ⟨rfl, rfl, rfl⟩

theorem windowRevoked_stages (w : Win) (c : StopCause) (s : State) :
    (windowRevoked w c s).stages = s.stages.set (.window w) .brake := by
  rw [← brakeWindow_stages, windowRevoked]
  rfl

theorem windowRevoked_window (w : Win) (c : StopCause) (s : State) : (windowRevoked w c s).windows.get w =
    { s.windows.get w with
      run := .brake, nextDir := none, normPhase := .none, mode := none, source := none, cls := none, runDue := none
      noPulseArmed := false, pending := some ((s.windows.get w).pending.getD c)
      brakeDue := if s.stages.get (.window w) = .brake then (s.windows.get w).brakeDue
                  else some (s.now + msec 40) } := by
  rw [windowRevoked, setComfort_windows, modWindow_get, endRun_windows, brakeWindow_window]

theorem windowRevoked_window_ne {w v : Win} (h : v ≠ w) (c : StopCause) (s : State) :
    (windowRevoked w c s).windows.get v = s.windows.get v := by
  rw [windowRevoked, setComfort_windows, modWindow_get_ne _ _ h, endRun_windows, brakeWindow_window_ne h]

theorem windowRevoked_pinch (w : Win) (c : StopCause) (s : State) :
    ((windowRevoked w c s).pinch.get w).run = none
      ∧ ((windowRevoked w c s).pinch.get w).rev = (s.pinch.get w).rev := by
  have e : (windowRevoked w c s).pinch.get w = { (brakeWindow w s).pinch.get w with run := none } :=
    Wins.get_set_self _ _ _
  rw [e, (brakeWindow_keeps w s).1]
  exact ⟨rfl, rfl⟩

theorem windowRevoked_comfort (w : Win) (c : StopCause) (s : State) : (windowRevoked w c s).comfort.get w = false :=
  Wins.get_set_self _ _ _

theorem windowRevoked_keeps (w : Win) (c : StopCause) (s : State) : (windowRevoked w c s).latches = s.latches
    ∧ (windowRevoked w c s).supply = s.supply ∧ (windowRevoked w c s).events = s.events
    ∧ (windowRevoked w c s).sys = s.sys := by
  have hsys : (brakeWindow w s).sys = s.sys := by
    unfold brakeWindow
    split <;> rfl
  have hlatches := (brakeWindow_keeps w s).2.2
  unfold windowRevoked
  generalize hb : brakeWindow w s = b at hsys hlatches ⊢
  exact ⟨hlatches, by rw [← brakeWindow_supply w s, hb]; rfl, by rw [← brakeWindow_events w s, hb]; rfl, hsys⟩

/-- A revocation in RUN (R23). -/
theorem revokeWindow_run (w : Win) (h : s.sys.mode = .run) : revokeWindow w s =
    captureAll .driveRevoked (windowRevoked w s.revocationCause (s.withArb { s.arb with
      running := s.arb.running.filter (·.act != .window w)
      holds := if s.held (.window w) then s.arb.holds else s.arb.holds ++ [.window w] })) := by
  unfold revokeWindow
  rw [addHold_removeDrive, offer_run]
  rw [(windowRevoked_keeps w _ _).2.2.2]
  exact h

/-- Settles O16. -/
theorem windowsRevoked : Obligations.WindowsRevoked := by
  refine ⟨?filtered, fun b s => ⟨handBand_same, handBand_normal, handBand_outside⟩,
    fun b s => ⟨handBudget_same, handBudget_rise, handBudget_fall⟩, fun s => revokeForSupply_normal,
    revokeForSupply_window, fun f w ws s => ⟨rfl, revokeUntil_enough w ws, revokeUntil_more w ws⟩, ?youngest, ?revoked,
    fun w s h => if_pos h⟩
  case filtered =>
    intro raw s h hv hl
    rw [exec_vbatSample_listed h hv]
    generalize hx : (s.withNow (max s.now s.supply.sampleDue)).withSupply { s.supply with
      sampleDue := max s.now s.supply.sampleDue + (if s.sys.mode = .park then msec 100 else msec 5) } = x
    generalize hy : x.withSupply { x.supply with samples := pushSample x.supply.samples (min raw 32767) } = y
    generalize hz : y.withSupply { y.supply with
      vf := some ((pushSample x.supply.samples (min raw 32767)).sum / 8)
      band := nextBand y.supply.band ((pushSample x.supply.samples (min raw 32767)).sum / 8)
      budget := budgetOf ((pushSample x.supply.samples (min raw 32767)).sum / 8) } = z
    obtain ⟨harb, hevents, hstages, hwindows, hsupply⟩ := markSupply_fields z
    have hvf : z.supply.vf = some ((pushSample x.supply.samples (min raw 32767)).sum / 8) := by rw [← hz]; rfl
    refine ⟨markSupply z, ?_, ?_, ?_, ?_, ?_, _, by rw [hsupply]; exact hvf, fun w => ?_⟩
    · have hlen : 7 ≤ x.supply.samples.length := by
        have e : x.supply.samples = s.supply.samples := by rw [← hx]; rfl
        rw [e]
        omega
      rw [listSample_complete hlen, hy, applyVf, hz]
      subst hy hx
      rfl
    · rw [harb, ← hz, ← hy, ← hx]; rfl
    · rw [hevents, ← hz, ← hy, ← hx]; rfl
    · rw [hstages, ← hz, ← hy, ← hx]; rfl
    · rw [hwindows, ← hz, ← hy, ← hx]; rfl
    · rw [markSupply_pinch hvf w, ← hz, ← hy, ← hx]; rfl
  case youngest =>
    intro d s ds h
    refine ⟨fun w hw => ?_, fun hn => ?_⟩
    · rw [youngestWindows_append h, window?_of_window hw]; rfl
    · rw [youngestWindows_append h, window?_of_other hn]; rfl
  case revoked =>
    intro w s hm
    dsimp only
    rw [revokeWindow_run w hm]
    generalize hx : s.withArb { s.arb with
      running := s.arb.running.filter (·.act != .window w)
      holds := if s.held (.window w) then s.arb.holds else s.arb.holds ++ [.window w] } = x
    have hwin : x.windows = s.windows := by rw [← hx]; rfl
    have hst : x.stages = s.stages := by rw [← hx]; rfl
    have hnow : x.now = s.now := by rw [← hx]; rfl
    obtain ⟨hlatches, hsupply, hevents, -⟩ := windowRevoked_keeps w s.revocationCause x
    refine ⟨?_, ?_, ?_, fun v hv => ?_, ?_, ?_, windowRevoked_comfort w s.revocationCause x, fun p => ?_, ?_, ?_⟩
    · exact (windowRevoked_arb w s.revocationCause x).trans (by rw [← hx]; rfl)
    · exact (windowRevoked_stages w s.revocationCause x).trans (by rw [hst])
    · refine (windowRevoked_window w s.revocationCause x).trans ?_
      rw [hwin, hst, hnow]
      rfl
    · exact (windowRevoked_window_ne hv s.revocationCause x).trans (by rw [hwin])
    · exact (windowRevoked_pinch w s.revocationCause x).1
    · exact (windowRevoked_pinch w s.revocationCause x).2.trans (by rw [← hx]; rfl)
    · rw [captureAll_get, hevents, ← hx]; rfl
    · exact hlatches.trans (by rw [← hx]; rfl)
    · exact hsupply.trans (by rw [← hx]; rfl)

end Sys2Proof.Machine
end

section
/-! The end of a window's brake and of its drive (R22, R81, R82, R107). -/

namespace Sys2Proof.Machine

variable {s : State}

/-! ### What a brake's end comes to -/

theorem endWindowBrake_turn {w : Win} {x : WDir} (h : (s.windows.get w).nextDir = some x) :
    endWindowBrake w s = startRun w x s := by
  simp only [endWindowBrake, h]

theorem endWindowBrake_stop {w : Win} {c : StopCause} (hn : (s.windows.get w).nextDir = none)
    (hp : (s.windows.get w).pending = some c) : endWindowBrake w s = endWindowDrive w
      (if (s.windows.get w).pendingFault = .none then settleStopped w c (s.setStage (.window w) .off)
       else settleFaulted w c (s.windows.get w).pendingFault (s.setStage (.window w) .off)) := by
  simp only [endWindowBrake, hn, settleStop, hp, Option.getD_some]

theorem exec_windowBrakeEnd {w : Win} {d : Time} (h : (s.windows.get w).brakeDue = some d) :
    exec (.windowBrakeEnd w) s = .next (refreshPark (endWindowBrake w (reach d s))) := by
  show onTimer (s.windows.get w).brakeDue (endWindowBrake w) s = _
  rw [h, onTimer_due]

/-! ### The end of a reversal (R107, R109) -/

theorem finishReversal_idle {w : Win} {c : StopCause} (h : (s.pinch.get w).rev.active = false) :
    finishReversal w c s = s := by
  unfold finishReversal
  rw [if_neg (by simp [h])]

theorem RevRec.finish_complete (v : RevRec) {c : StopCause} (h : c = .pinch ∨ c = .bottom) :
    v.finish c = { v with active := false, outcome := .complete, cause := .none } := by
  rcases h with rfl | rfl <;> rfl

theorem RevRec.finish_interrupted (v : RevRec) {c : StopCause} (hp : c ≠ .pinch) (hb : c ≠ .bottom) :
    v.finish c = { v with active := false, outcome := .interrupted, cause := c } := by
  cases c with
  | pinch => exact absurd rfl hp
  | bottom => exact absurd rfl hb
  | _ => rfl

/-- A reversal in progress ends with its outcome, and its window's channels that read other than NEUTRAL wait. -/
theorem finishReversal_active {w : Win} (c : StopCause) (h : (s.pinch.get w).rev.active = true) :
    ∃ cs, finishReversal w c s = (s.modPinch w fun x => { x with rev := x.rev.finish c }).withChans cs
      ∧ ∀ x : Chan, cs.get x = if chanWin x = w ∧ (s.chans.get x).position ≠ .neutral then
          { s.chans.get x with waiting := true } else s.chans.get x := by
  unfold finishReversal
  rw [if_pos h]
  exact holdChannels_eq w (s.modPinch w fun x => { x with rev := x.rev.finish c })

/-- A stop with cause PINCH moves the channels of its window alone (R83, R109). -/
theorem holdAfterPinch_eq (w : Win) (c : StopCause) (s : State) : ∃ cs, holdAfterPinch w c s = s.withChans cs
    ∧ ∀ x : Chan, cs.get x = if c = .pinch ∧ chanWin x = w ∧ (s.chans.get x).position ≠ .neutral then
        { s.chans.get x with waiting := true } else s.chans.get x := by
  unfold holdAfterPinch
  by_cases h : c = .pinch
  · obtain ⟨cs, e, k⟩ := holdChannels_eq w s
    exact ⟨cs, by rw [if_pos h, e], fun x => by rw [k x]; simp only [h, true_and]⟩
  · exact ⟨s.chans, by rw [if_neg h]; rfl, fun x => by rw [if_neg fun k => h k.1]⟩

/-! ### STOPPED and QUEUED (R81, R82) -/

theorem windowQueued_iff {w : Win} : s.windowQueued w = true ↔ s.entry? (.window w) ≠ none := by
  unfold State.windowQueued
  rw [Option.isSome_iff_ne_none]

/-- The window's record and the comfort set once its bridge is OFF. -/
def stoppedState (w : Win) (c : StopCause) (s : State) : State :=
  if s.entry? (.window w) = none then
    (s.modWindow w fun r => { r with
      run := .stopped, lastStop := c, nextDir := none, pending := none, brakeDue := none
      mode := none, source := none, cls := none }).withComfort (s.comfort.set w false)
  else s.modWindow w fun r => { r with
    run := .queued, lastStop := c, nextDir := none, pending := none, brakeDue := none }

theorem settleStopped_eq (w : Win) (c : StopCause) (s : State) : settleStopped w c s =
    finishReversal w c (holdAfterPinch w c (offer .windowStopped (stoppedState w c s))) := by
  unfold settleStopped stoppedState
  by_cases h : s.entry? (.window w) = none
  · have hq : s.windowQueued w = false := by rw [← Bool.not_eq_true, windowQueued_iff]; simpa using h
    rw [if_pos h]
    simp only [hq, Bool.false_eq_true, if_false, clearMovement, modWindow_modWindow]
    rfl
  · have hq : s.windowQueued w = true := windowQueued_iff.2 h
    rw [if_neg h]
    simp only [hq, if_true]

theorem stoppedState_keeps (w : Win) (c : StopCause) (s : State) : (stoppedState w c s).pinch = s.pinch
    ∧ (stoppedState w c s).arb = s.arb ∧ (stoppedState w c s).stages = s.stages
    ∧ (stoppedState w c s).store = s.store ∧ (stoppedState w c s).events = s.events
    ∧ (stoppedState w c s).chans = s.chans ∧ (stoppedState w c s).sys = s.sys
    ∧ ∀ v, v ≠ w → (stoppedState w c s).windows.get v = s.windows.get v := by
  unfold stoppedState
  split
  · refine ⟨rfl, rfl, rfl, rfl, rfl, rfl, rfl, fun v hv => ?_⟩
    rw [State.withComfort_windows, modWindow_get_ne _ _ hv]
  · exact ⟨rfl, rfl, rfl, rfl, rfl, rfl, rfl, fun v hv => modWindow_get_ne _ _ hv⟩

theorem stoppedState_stopped {w : Win} {c : StopCause} (h : s.entry? (.window w) = none) :
    (stoppedState w c s).comfort = s.comfort.set w false ∧ (stoppedState w c s).windows.get w =
      { s.windows.get w with run := .stopped, lastStop := c, nextDir := none, pending := none, brakeDue := none
                             mode := none, source := none, cls := none } := by
  unfold stoppedState
  rw [if_pos h, State.withComfort_windows, modWindow_get]
  exact ⟨rfl, rfl⟩

theorem stoppedState_queued {w : Win} {c : StopCause} (h : s.entry? (.window w) ≠ none) :
    (stoppedState w c s).comfort = s.comfort ∧ (stoppedState w c s).windows.get w =
      { s.windows.get w with run := .queued, lastStop := c, nextDir := none, pending := none, brakeDue := none } := by
  unfold stoppedState
  rw [if_neg h]
  exact ⟨rfl, modWindow_get w _ s⟩

/-! ### FAULTED (R67, R69, R80, R88) -/

/-- A change to UNLEARNED moves the field, and what an offer and a store write move (R67). -/
theorem unlearn_records (w : Win) (s : State) :
    Records (s.modWindow w fun r => { r with norm := .unlearned }) (unlearn w s) := by
  by_cases h : (s.windows.get w).norm = .unlearned
  · have e : (s.modWindow w fun r => { r with norm := .unlearned }) = s := by
      show s.withWindows (s.windows.set w _) = s
      rw [Wins.set_eq_self (by rw [← h])]
      rfl
    rw [e, unlearn, if_pos h]
    exact .refl s
  · rw [unlearn, if_neg h, changeNorm, if_neg h]
    exact (Records.offer _ _).trans (Records.writeProfileRow _ _ _)

theorem unlearn_of_unlearned {w : Win} (h : (s.windows.get w).norm = .unlearned) : unlearn w s = s := if_pos h

theorem unlearn_of_learned {w : Win} (h : (s.windows.get w).norm ≠ .unlearned) : unlearn w s =
    writeProfileRow w 0 (offer .normalizationChanged (s.modWindow w fun r => { r with norm := .unlearned })) := by
  rw [unlearn, if_neg h, changeNorm, if_neg h]

/-- In RUN a store write leaves the events. -/
theorem storeWrite_events (l : LRow) (c : Content) (h : s.sys.mode = .run) :
    (storeWrite l c s).events = s.events := by
  unfold storeWrite
  rw [wake_running h]
  split
  · rfl
  · dsimp only
    split <;> rfl

/-- The capture of NORMALIZATION_CHANGED, or of nothing. -/
def normBit (changed : Bool) : Word32 := if changed then Ev.normalizationChanged.bit else 0#32

theorem unlearn_events (w : Win) (h : s.sys.mode = .run) (p : Port) : (unlearn w s).events.get p =
    { s.events.get p with captured := (s.events.get p).captured
        ||| (normBit (decide ((s.windows.get w).norm ≠ .unlearned)) &&& (s.events.get p).mask) } := by
  by_cases hn : (s.windows.get w).norm = .unlearned
  · rw [unlearn_of_unlearned hn]
    simp [normBit, hn]
  · have hm : (s.modWindow w fun r => { r with norm := .unlearned }).sys.mode = .run := h
    have hk : (captureAll .normalizationChanged (s.modWindow w fun r => { r with norm := .unlearned })).sys.mode =
      .run := h
    rw [unlearn_of_learned hn, writeProfileRow, offer_run hm, storeWrite_events _ _ hk, captureAll_get]
    simp [normBit, hn, EventRec.capture, State.modWindow]

/-- The first profile row of a window that becomes UNLEARNED waits in the store queue (R67). -/
theorem unlearn_queues {w : Win} (h : (s.windows.get w).norm ≠ .unlearned)
    (hv : s.store.shadows[w.row 0].isVolatile = false) : w.row 0 ∈ (unlearn w s).store.queue := by
  have e : (offer .normalizationChanged (s.modWindow w fun r => { r with norm := .unlearned })).store = s.store := by
    show (wake _).store = _
    unfold wake
    split <;> rfl
  rw [unlearn_of_learned h, writeProfileRow, storeWrite_store, e]
  dsimp only
  split
  · rename_i k
    rcases k with k | k
    · rw [hv] at k; cases k
    · exact k
  · exact List.mem_append_right _ (List.mem_singleton.2 rfl)

/-- The window's record as it enters FAULTED, and its normalization after a Hall fault. -/
def faultedState (w : Win) (c : StopCause) (f : WFault) (s : State) : State :=
  let u := s.modWindow w fun r =>
    { r with run := .faulted, fault := f, lastStop := c, nextDir := none, pending := none, pendingFault := .none
             normPhase := .none, runDue := none, brakeDue := none, noPulseArmed := false }
  if f = .hallFault then unlearn w u else u

/-- An entry submitted during a brake hold is withdrawn (log 14). -/
theorem dropEntry_eq (w : Win) (s : State) : dropEntry w s =
    (let x := if s.entry? (.window w) = none then s
              else scan (s.withArb { s.arb with
                queue := s.arb.queue.filter (·.act != .window w)
                seq := if (s.arb.queue.filter (·.act != .window w)).isEmpty then 0 else s.arb.seq })
     (x.modWindow w fun r => { r with mode := none, source := none, cls := none }).withComfort
       (x.comfort.set w false)) := by
  have hw : withdraw w s = if s.entry? (.window w) = none then s else scan (removeEntry (.window w) s) := by
    unfold withdraw
    cases s.entry? (.window w) <;> simp
  unfold dropEntry
  rw [hw]
  rfl

theorem settleFaulted_eq (w : Win) (c : StopCause) (f : WFault) (s : State) : settleFaulted w c f s =
    finishReversal w c (dropEntry w (offer .windowFault (offer .windowStopped (faultedState w c f s)))) := rfl

theorem faultedState_arb (w : Win) (c : StopCause) (f : WFault) (s : State) : (faultedState w c f s).arb = s.arb := by
  unfold faultedState
  dsimp only
  split
  · exact (unlearn_records w _).arb
  · rfl

theorem offered_entry? (e f : Ev) (a : Actuator) (s : State) : (offer e (offer f s)).entry? a = s.entry? a := by
  unfold State.entry?
  rw [(Records.offer _ _).arb, (Records.offer _ _).arb]

theorem faultedState_entry? (w : Win) (c : StopCause) (f : WFault) (a : Actuator) (s : State) :
    (faultedState w c f s).entry? a = s.entry? a := by
  unfold State.entry?
  rw [faultedState_arb]

theorem faultedState_records (w : Win) (c : StopCause) (f : WFault) (s : State) : Records
    (s.modWindow w fun r => { r with
      run := .faulted, fault := f, lastStop := c, nextDir := none, pending := none, pendingFault := .none
      normPhase := .none, runDue := none, brakeDue := none, noPulseArmed := false
      norm := if f = .hallFault then .unlearned else r.norm }) (faultedState w c f s) := by
  unfold faultedState
  dsimp only
  by_cases h : f = .hallFault
  · simp only [if_pos h]
    have k := unlearn_records w (s.modWindow w fun r => { r with
      run := .faulted, fault := f, lastStop := c, nextDir := none, pending := none, pendingFault := .none
      normPhase := .none, runDue := none, brakeDue := none, noPulseArmed := false })
    rw [modWindow_modWindow] at k
    exact k
  · simp only [if_neg h]
    exact .refl _

/-- NORMALIZATION_CHANGED is captured as a window enters FAULTED after a Hall fault, when it was not UNLEARNED. -/
def faultBit (f : WFault) (n : Norm) : Word32 :=
  if f = .hallFault ∧ n ≠ .unlearned then Ev.normalizationChanged.bit else 0#32

theorem faultedState_events (w : Win) (c : StopCause) (f : WFault) (h : s.sys.mode = .run) (p : Port) :
    (faultedState w c f s).events.get p = { s.events.get p with captured := (s.events.get p).captured
      ||| (faultBit f (s.windows.get w).norm &&& (s.events.get p).mask) } := by
  unfold faultedState
  dsimp only
  by_cases hf : f = .hallFault
  · rw [if_pos hf]
    have hm : (s.modWindow w fun r => { r with
      run := .faulted, fault := f, lastStop := c, nextDir := none, pending := none, pendingFault := .none
      normPhase := .none, runDue := none, brakeDue := none, noPulseArmed := false }).sys.mode = .run := h
    rw [unlearn_events w hm p, modWindow_get]
    simp [normBit, faultBit, hf, State.modWindow]
  · rw [if_neg hf]
    simp [faultBit, hf, State.modWindow]

theorem faultedState_store {w : Win} {c : StopCause} {f : WFault} (h : f ≠ .hallFault) :
    (faultedState w c f s).store = s.store := by
  unfold faultedState
  rw [if_neg h]
  rfl

theorem faultedState_queues {w : Win} {c : StopCause} {f : WFault} (hf : f = .hallFault)
    (h : (s.windows.get w).norm ≠ .unlearned) (hv : s.store.shadows[w.row 0].isVolatile = false) :
    w.row 0 ∈ (faultedState w c f s).store.queue := by
  unfold faultedState
  rw [if_pos hf]
  exact unlearn_queues (by rw [modWindow_get]; exact h) hv

theorem clearMovement_window (w : Win) (s : State) : (clearMovement w s).windows.get w =
    { s.windows.get w with mode := none, source := none, cls := none } := by
  rw [clearMovement, setComfort_windows, modWindow_get]

theorem clearMovement_window_ne {w v : Win} (h : v ≠ w) (s : State) :
    (clearMovement w s).windows.get v = s.windows.get v := by
  rw [clearMovement, setComfort_windows, modWindow_get_ne _ _ h]

theorem clearMovement_comfort (w : Win) (s : State) : (clearMovement w s).comfort.get w = false :=
  Wins.get_set_self _ _ _

theorem clearMovement_keeps (w : Win) (s : State) : (clearMovement w s).arb = s.arb
    ∧ (clearMovement w s).store = s.store ∧ (clearMovement w s).events = s.events
    ∧ (clearMovement w s).pinch = s.pinch := ⟨rfl, rfl, rfl, rfl⟩

theorem dropEntry_alone {w : Win} (h : s.entry? (.window w) = none) : dropEntry w s = clearMovement w s := by
  have hw : withdraw w s = s := by simp [withdraw, h]
  rw [dropEntry, hw]

/-- A window that stops FAULTED in RUN with no waiting entry and no reversal in progress. -/
theorem settleFaulted_alone {w : Win} {c : StopCause} (f : WFault) (he : s.entry? (.window w) = none)
    (hr : (s.pinch.get w).rev.active = false) (hm : s.sys.mode = .run) : settleFaulted w c f s =
      clearMovement w (captureAll .windowFault (captureAll .windowStopped (faultedState w c f s))) := by
  have hrec := faultedState_records w c f s
  have hmode : (faultedState w c f s).sys.mode = .run := by
    rw [(hrec.awake (by show s.sys.mode ≠ .park; simp [hm])).1]
    exact hm
  have hmode' : (captureAll .windowStopped (faultedState w c f s)).sys.mode = .run := hmode
  have hentry : (offer .windowFault (offer .windowStopped (faultedState w c f s))).entry? (.window w) = none := by
    rw [offered_entry?, faultedState_entry?, he]
  have hpinch : (captureAll .windowFault (captureAll .windowStopped (faultedState w c f s))).pinch = s.pinch :=
    hrec.pinch
  rw [settleFaulted_eq, dropEntry_alone hentry, offer_run hmode, offer_run hmode']
  refine finishReversal_idle ?_
  rw [(clearMovement_keeps w _).2.2.2, hpinch, hr]

/-! ### The drive ends (R22, R82) -/

theorem endWindowDrive_idle {w : Win} (h : s.held (.window w) = false) (hd : s.drive? (.window w) = none) :
    endWindowDrive w s = s := by
  simp only [endWindowDrive, h, Bool.false_eq_true, if_false, endReport, hd]

theorem drive?_act {a : Actuator} {d : Drive} (h : s.drive? a = some d) : d.act = a := by
  have k := List.find?_some h
  simpa using k

/-- A drive that is no lock motor's has no end of its own to report (R29). -/
theorem reportGroupless_other {d : Drive} (ok : Bool) (h : ∀ l, d.act ≠ .lock l) (s : State) :
    reportGroupless d ok s = s := by
  unfold reportGroupless
  split
  · rename_i l hl _
    exact absurd hl (h l)
  · rfl

/-- The end report of a window's drive (R22). -/
theorem endWindowDrive_running {w : Win} {d : Drive} (h : s.held (.window w) = false)
    (hd : s.drive? (.window w) = some d) : endWindowDrive w s =
      scan (settleList (.window w) (if (s.windows.get w).run = .faulted then .failed else .success) d.waiting
        (s.withArb { s.arb with running := s.arb.running.filter (·.act != .window w) })) := by
  have ho : ∀ l, d.act ≠ .lock l := fun l k => by rw [drive?_act hd] at k; cases k
  have hk : (if (s.windows.get w).run != .faulted then Settled.success else .failed)
      = if (s.windows.get w).run = .faulted then .failed else .success := by
    by_cases k : (s.windows.get w).run = .faulted <;> simp [k]
  simp only [endWindowDrive, h, Bool.false_eq_true, if_false, endReport, hd, reportGroupless_other _ ho, hk]
  rfl

/-- Settles O34. -/
theorem windowBrakeEnds : Obligations.WindowBrakeEnds := by
  refine ⟨?turn, ?stop, ?fault, ?stopped, ?faulted, ?faultedForm, ?reversal, ?stoppedForm,
    fun w s h => ⟨endWindowDrive_idle h, fun d hd => endWindowDrive_running h hd⟩⟩
  case turn =>
    intro w d x s hd hn
    rw [exec_windowBrakeEnd hd, endWindowBrake_turn (by exact hn)]
  case stop =>
    intro w d c s hd hn hp hf
    rw [exec_windowBrakeEnd hd, endWindowBrake_stop (by exact hn) (by exact hp), if_pos (by exact hf)]
  case fault =>
    intro w d c f s hd hn hp hf hne
    have hne' : ¬ ((reach d s).windows.get w).pendingFault = .none := by
      rw [reach_windows, hf]; exact hne
    rw [exec_windowBrakeEnd hd, endWindowBrake_stop (by exact hn) (by exact hp), if_neg hne', reach_windows, hf]
  case stopped =>
    intro w c s he hr hm
    obtain ⟨hpinch, -, -, -, hevents, -, hsys, hother⟩ := stoppedState_keeps w c s
    obtain ⟨hcomfort, hwindow⟩ := stoppedState_stopped (c := c) he
    rw [settleStopped_eq]
    generalize stoppedState w c s = x at hpinch hevents hsys hother hcomfort hwindow ⊢
    obtain ⟨cs, hcs, -⟩ := holdAfterPinch_eq w c (offer .windowStopped x)
    rw [hcs, offer_run (by rw [hsys]; exact hm), finishReversal_idle (by rw [← hpinch] at hr; exact hr)]
    refine ⟨_, rfl, congrArg WindowRec.run hwindow, congrArg WindowRec.lastStop hwindow,
      congrArg WindowRec.mode hwindow, congrArg WindowRec.source hwindow,
      (congrArg (Wins.get · w) hcomfort).trans (Wins.get_set_self _ _ _), fun q => ?_, hother⟩
    rw [State.withChans_events, captureAll_get, hevents]
    rfl
  case faulted =>
    intro w c f s he hr hm
    have hwin := (faultedState_records w c f s).windows
    rw [settleFaulted_alone f he hr hm]
    generalize hv : captureAll .windowFault (captureAll .windowStopped (faultedState w c f s)) = v
    have hstore : v.store = (faultedState w c f s).store := by rw [← hv]; rfl
    have harb : v.arb = s.arb := by rw [← hv]; exact faultedState_arb w c f s
    have hwindows : v.windows = (faultedState w c f s).windows := by rw [← hv]; rfl
    obtain ⟨karb, kstore, kevents, -⟩ := clearMovement_keeps w v
    refine ⟨_, if f = .hallFault then .unlearned else (s.windows.get w).norm, faultBit f (s.windows.get w).norm, rfl,
      ?_, fun h => if_pos h, fun h => ⟨if_neg h, ?_⟩, fun h hn hq => ?_, rfl, fun q => ?_, clearMovement_comfort w v,
      fun x hx => ?_, karb.trans harb⟩
    · rw [clearMovement_window, hwindows, hwin, modWindow_get]
    · rw [kstore, hstore, faultedState_store h]
    · rw [kstore, hstore]
      exact faultedState_queues h hn hq
    · rw [kevents, ← hv, captureAll_get, captureAll_get, faultedState_events w c f hm]
      simp only [EventRec.capture, BitVec.and_or_distrib_right, BitVec.or_assoc]
    · rw [clearMovement_window_ne hx, hwindows, hwin, modWindow_get_ne _ _ hx]
  case faultedForm =>
    intro w c f s
    have he : (offer .windowFault (offer .windowStopped (faultedState w c f s))).entry? (.window w) =
        s.entry? (.window w) := by rw [offered_entry?, faultedState_entry?]
    rw [settleFaulted_eq, dropEntry_eq, he]
    rfl
  case reversal =>
    intro w c s
    refine ⟨fun h => finishReversal_idle h, fun h => ?_⟩
    obtain ⟨cs, e, k⟩ := finishReversal_active c h
    have hrev : ((finishReversal w c s).pinch.get w).rev = (s.pinch.get w).rev.finish c := by
      rw [e, State.withChans_pinch]
      exact congrArg PinchRec.rev (Wins.get_set_self _ _ _)
    refine ⟨fun hc => hrev.trans (RevRec.finish_complete _ hc),
      fun hp hb => hrev.trans (RevRec.finish_interrupted _ hp hb), fun x => ?_, ?_, ?_, ?_⟩
    · rw [e]; exact k x
    · rw [e]; rfl
    · rw [e]; rfl
    · rw [e]; rfl
  case stoppedForm =>
    intro w c s hm
    obtain ⟨hpinch, harb, hstages, hstore, hevents, hchans, hsys, hother⟩ := stoppedState_keeps w c s
    have hstopped := stoppedState_stopped (w := w) (c := c) (s := s)
    have hqueued := stoppedState_queued (w := w) (c := c) (s := s)
    rw [settleStopped_eq]
    generalize stoppedState w c s = x at hpinch harb hstages hstore hevents hchans hsys hother hstopped hqueued ⊢
    refine ⟨holdAfterPinch w c (offer .windowStopped x), rfl, ?_⟩
    obtain ⟨cs, hcs, hk⟩ := holdAfterPinch_eq w c (offer .windowStopped x)
    rw [offer_run (by rw [hsys]; exact hm)] at hcs hk ⊢
    rw [hcs]
    refine ⟨hstopped, hqueued, hother, fun k => ?_, fun q => ?_, hpinch, harb, hstages, hstore⟩
    · refine (hk k).trans ?_
      rw [← hchans]
      rfl
    · rw [State.withChans_events, captureAll_get, hevents]
      rfl

end Sys2Proof.Machine
end

section
/-! Groups (R34 to R40, R50): free ids, submission of the members, settlement and completion. -/

namespace Sys2Proof.Machine

variable {s : State}

/-! ### Free group ids (R34) -/

theorem idAfter_range (n : Nat) : 1 ≤ idAfter n ∧ idAfter n ≤ 255 := by
  unfold idAfter
  split <;> omega

/-- The ids run in a cycle of 255. -/
theorem idAfter_iterate {n : Nat} (h1 : 1 ≤ n) (h2 : n ≤ 255) (k : Nat) : idAfter^[k] n = (n - 1 + k) % 255 + 1 := by
  induction k with
  | zero => rw [Function.iterate_zero, id]; omega
  | succ k ih =>
    rw [Function.iterate_succ_apply', ih]
    unfold idAfter
    split <;> omega

theorem freshId_free {used : List Nat} {n : Nat} (h : n ∉ used) (fuel : Nat) : freshId used fuel n = n := by
  cases fuel with
  | zero => rfl
  | succ fuel => exact if_neg (by simpa using h)

theorem freshId_range (used : List Nat) {n : Nat} (h : 1 ≤ n ∧ n ≤ 255) (fuel : Nat) :
    1 ≤ freshId used fuel n ∧ freshId used fuel n ≤ 255 := by
  induction fuel generalizing n with
  | zero => exact h
  | succ fuel ih =>
    unfold freshId
    split
    · exact ih (idAfter_range n)
    · exact h

/-- The search for an id fails only when every id it met is held. -/
theorem freshId_spec (used : List Nat) (fuel n : Nat) :
    freshId used fuel n ∉ used ∨ ∀ k ≤ fuel, idAfter^[k] n ∈ used := by
  induction fuel generalizing n with
  | zero =>
    by_cases h : n ∈ used
    · exact .inr fun k hk => by rw [Nat.le_zero.1 hk]; exact h
    · exact .inl h
  | succ fuel ih =>
    by_cases h : n ∈ used
    · have e : freshId used (fuel + 1) n = freshId used fuel (idAfter n) := if_pos (by simpa using h)
      rw [e]
      refine (ih (idAfter n)).imp_right fun k m hm => ?_
      cases m with
      | zero => exact h
      | succ m => exact k m (by omega)
    · exact .inl (by rw [freshId_free h]; exact h)

/-- Fewer than 255 open groups leave an id free: the ids that the search meets are distinct. -/
theorem freshId_not_mem {used : List Nat} {n : Nat} (h1 : 1 ≤ n) (h2 : n ≤ 255) (hl : used.length < 255) :
    freshId used used.length n ∉ used := by
  refine (freshId_spec used used.length n).resolve_right fun h => ?_
  have hnodup : ((List.range (used.length + 1)).map fun k => idAfter^[k] n).Nodup := by
    refine List.Nodup.map_on (fun j hj k hk e => ?_) List.nodup_range
    rw [List.mem_range] at hj hk
    rw [idAfter_iterate h1 h2, idAfter_iterate h1 h2] at e
    omega
  have hsub : ((List.range (used.length + 1)).map fun k => idAfter^[k] n) ⊆ used := by
    intro x hx
    obtain ⟨k, hk, rfl⟩ := List.mem_map.1 hx
    exact h k (Nat.le_of_lt_succ (List.mem_range.1 hk))
  have hle := (hnodup.subperm hsub).length_le
  rw [List.length_map, List.length_range] at hle
  omega

theorem newGroupId_fresh (hl : s.groups.entries.length ≤ 6) (h1 : 1 ≤ s.groups.nextId) (h2 : s.groups.nextId ≤ 255) :
    ∀ g ∈ s.groups.entries, g.id ≠ s.newGroupId := by
  intro g hg e
  have hlen : (s.groups.entries.map (·.id)).length < 255 := by rw [List.length_map]; omega
  exact freshId_not_mem h1 h2 hlen (List.mem_map.2 ⟨g, hg, e⟩)

theorem newGroupId_next (h : ∀ g ∈ s.groups.entries, g.id ≠ s.groups.nextId) : s.newGroupId = s.groups.nextId := by
  refine freshId_free (fun k => ?_) _
  obtain ⟨g, hg, e⟩ := List.mem_map.1 k
  exact h g hg e

/-! ### Submission of the members (R36, R37) -/

theorem stateIsTarget_lock (l : Latch) (s : State) :
    (s.stateIsTarget .lock (.lock l) = true ↔ (s.latches.get l).state = .locked)
      ∧ (s.stateIsTarget .unlock (.lock l) = true ↔ (s.latches.get l).state = .unlocked)
      ∧ (s.stateIsTarget .deadlock (.lock l) = true ↔ (s.latches.get l).state = .deadlocked) := by
  simp [State.stateIsTarget]

theorem stateIsTarget_child (c : Side) (s : State) :
    (s.stateIsTarget .engage (.child c) = true ↔ (s.child.recs.get c).state = .engaged)
      ∧ (s.stateIsTarget .disengage (.child c) = true ↔ (s.child.recs.get c).state = .disengaged) := by
  simp [State.stateIsTarget]

theorem atTarget_iff {act : Action} {a : Actuator} : s.atTarget act a = true ↔
    act ≠ .crashUnlock ∧ s.stateIsTarget act.dir a = true ∧ s.entry? a = none ∧ s.drive? a = none := by
  simp [State.atTarget, and_assoc]

theorem submitMembers_append (op : Operation) (id : Option Nat) (ms : List Actuator) (a : Actuator) (s : State) :
    submitMembers { op with members := ms ++ [a] } id s =
      submitMember op id a (submitMembers { op with members := ms } id s) := by
  show List.foldl _ _ (ms ++ [a]) = _
  rw [List.foldl_append]
  rfl

/-- A member at its target leaves outstanding without a drive (R37). -/
theorem submitMember_atTarget {op : Operation} {a : Actuator} (n : Nat) (t : Tally)
    (h : s.atTarget op.action a = true) :
    submitMember op (some n) a (s, t) = (modGroup n (Group.settle a .success) s, { t with taken := true }) := by
  unfold submitMember
  rw [if_pos h]

/-- The request that a member's drive is submitted with (R36). -/
def memberRequest (op : Operation) (n : Nat) (a : Actuator) : Request :=
  { act := a, dir := op.action.dir, cls := op.cls, source := op.source, mode := none, group := some n }

/-- The arbiter's answer for a member that is driven (R36). -/
theorem submitMember_driven {op : Operation} {a : Actuator} (n : Nat) (t : Tally)
    (h : ¬ s.atTarget op.action a = true) : submitMember op (some n) a (s, t) =
      match (submit (memberRequest op n a) s).2 with
      | .queued => ((submit (memberRequest op n a) s).1, { t with queued := true, taken := true })
      | .merged => ((submit (memberRequest op n a) s).1, { t with merged := true, taken := true })
      | .overruled => (modGroup n (Group.settle a .overruled) (submit (memberRequest op n a) s).1, t) := by
  unfold submitMember
  rw [if_neg h]
  rfl

/-! ### Settlement and completion (R38 to R40, R50) -/

theorem settle_absent {a : Actuator} {o : Settled} {g : Group} (h : a ∉ g.outstanding) : g.settle a o = g :=
  if_neg (by simpa using h)

theorem settle_outstanding {a : Actuator} {o : Settled} {g : Group} (h : a ∈ g.outstanding) : g.settle a o = { g with
    outstanding := g.outstanding.filter (· != a)
    failed := if o = .failed then g.failed ++ [a] else g.failed
    overruled := if o = .overruled then g.overruled ++ [a] else g.overruled } := by
  unfold Group.settle
  rw [if_pos (by simpa using h)]
  cases o <;> rfl

theorem testCompletion_waiting {id : Nat} {g : Group} (h : s.group? id = some g) (ho : g.outstanding ≠ []) :
    testCompletion id s = s := by
  have he : g.outstanding.isEmpty = false := by simpa using ho
  simp only [testCompletion, h, he, Bool.false_eq_true, if_false]

theorem testCompletion_unknown {id : Nat} (h : s.group? id = none) : testCompletion id s = s := by
  simp only [testCompletion, h]

theorem testCompletion_done {id : Nat} {g : Group} (h : s.group? id = some g) (ho : g.outstanding = []) :
    testCompletion id s = completeGroup g s := by
  simp only [testCompletion, h, ho, List.isEmpty_nil, if_true]

theorem group?_id {id : Nat} {g : Group} (h : s.group? id = some g) : g.id = id := by
  have k := List.find?_some h
  simpa using k

/-- The event of a completion (R39). -/
theorem event_eq (g : Group) : g.event =
    if g.action == .childEngage || g.action == .childDisengage then
      (if g.failed = [] then .childChanged else .childFault)
    else if g.failed = [] then .lockChanged else .lockFault := by
  have hc : g.action.isChild = (g.action == .childEngage || g.action == .childDisengage) := by
    cases g.action <;> rfl
  unfold Group.event
  rw [← hc]
  cases g.action.isChild <;> cases g.failed <;> rfl

theorem isUnlock_iff (a : Action) : a.isUnlock = true ↔ a = .unlockAll ∨ a = .unlockDriver ∨ a = .unlockDoor := by
  cases a <;> simp [Action.isUnlock]

/-- The feedback of a completion: the group's pattern, or pattern 4 after a failure (R39). -/
def completionPattern (g : Group) (s : State) : State :=
  match g.pattern with
  | none => s
  | some i => patternRequest (if g.failed = [] then i else 4) s

/-- The record of a completion for the originating port (R40). -/
def completionRecord (g : Group) (s : State) : Ports (Option Group) :=
  match g.port with
  | none => s.groups.last
  | some p => s.groups.last.set p (some g)

/-- The end of a group but for the auto-relock timer: event, pattern, record, removal. -/
def closeGroup (g : Group) (s : State) : State :=
  (completionPattern g (offer g.event s)).withGroups { (completionPattern g (offer g.event s)).groups with
    entries := (completionPattern g (offer g.event s)).groups.entries.filter fun x => x.id != g.id
    last := completionRecord g (completionPattern g (offer g.event s)) }

theorem completeGroup_eq (g : Group) (s : State) : completeGroup g s = startRelock g (closeGroup g s) := by
  have hf : g.failed.isEmpty = decide (g.failed = []) := by cases g.failed <;> rfl
  unfold completeGroup closeGroup completionRecord completionPattern
  cases g.pattern <;> cases g.port <;> simp only [hf, decide_eq_true_eq] <;> rfl

theorem closeGroup_records (g : Group) (s : State) : Records s (closeGroup g s) := by
  refine Records.trans ?_ (Records.withGroups _ _)
  unfold completionPattern
  split
  · exact .offer _ _
  · exact (Records.offer _ _).trans (.patternRequest _ _)

/-- The auto-relock timer starts at the completion of a class-2 unlock without failure (R50). -/
theorem startRelock_eq (g : Group) (w : State) (hc : w.ctx = s.ctx) (hl : w.latches = s.latches) : startRelock g w =
    if g.cls = .access ∧ (g.action = .unlockAll ∨ g.action = .unlockDriver ∨ g.action = .unlockDoor)
        ∧ g.failed = [] ∧ w.cfg.relockTime ≠ 0 ∧ s.ctx.ignition = .off
        ∧ (∀ l ∈ Latch.list, (s.latches.get l).ajar = .closed) then
      w.withPresses { w.presses with relockDue := some (w.now + w.cfg.relockTime) }
    else w := by
  unfold startRelock
  simp only [hc, hl, isUnlock_iff, List.all_eq_true, beq_iff_eq]

/-! ### End reports and internal operations (R22, R29, R35) -/

theorem endReport_idle {a : Actuator} {ok : Bool} (h : s.drive? a = none) : endReport a ok s = s := by
  simp only [endReport, h]

theorem endReport_running {a : Actuator} {d : Drive} (ok : Bool) (h : s.drive? a = some d) : endReport a ok s =
    scan (reportGroupless d ok (settleList a (if ok then .success else .failed) d.waiting (removeDrive a s))) := by
  simp only [endReport, h]

theorem tableFull_iff : s.tableFull = true ↔ 6 ≤ s.groups.entries.length := by
  simp [State.tableFull]

/-- Settles O23. -/
theorem groupsSettled : Obligations.GroupsSettled := by
  refine ⟨?ids, ?run, fun op id ms a s => ⟨rfl, submitMembers_append op id ms a s⟩, ?member,
    fun a o g => ⟨settle_absent, settle_outstanding⟩, ?completion, ?report, fun a o id ids s => ⟨rfl, rfl⟩, ?internal,
    fun s => ⟨fun l => stateIsTarget_lock l s, fun c => stateIsTarget_child c s⟩⟩
  case ids =>
    intro s hl h1 h2
    obtain ⟨k1, k2⟩ := freshId_range (s.groups.entries.map (·.id)) ⟨h1, h2⟩ (s.groups.entries.map (·.id)).length
    exact ⟨k1, k2, newGroupId_fresh hl h1 h2, newGroupId_next⟩
  case run =>
    intro op s
    exact ⟨fun h => if_pos h, fun h => if_neg (Bool.eq_false_iff.1 h)⟩
  case member =>
    intro op n a t s
    dsimp only
    rw [← atTarget_iff]
    refine ⟨fun h => submitMember_atTarget n t h, fun h hx => ?_, fun h hx => ?_, fun h hx => ?_⟩
    all_goals
      rw [submitMember_driven n t h]
      have hx' : (submit (memberRequest op n a) s).2 = _ := hx
      rw [hx']
      rfl
  case completion =>
    intro id s
    refine ⟨fun g h ho => testCompletion_waiting h ho, testCompletion_unknown, fun g h ho => ?_⟩
    have hr := closeGroup_records g s
    rw [testCompletion_done h ho, completeGroup_eq, startRelock_eq g _ hr.ctx hr.latches]
    unfold closeGroup completionRecord completionPattern
    rw [event_eq, group?_id h] <;> rfl
  case report =>
    intro a ok s
    refine ⟨endReport_idle, fun d h => ?_⟩
    rw [endReport_running ok h]
    unfold reportGroupless
    cases d.act <;> cases d.waiting <;> rfl
  case internal =>
    intro op s
    exact ⟨fun h => if_neg (by rw [tableFull_iff]; omega), fun h => if_pos (tableFull_iff.2 h)⟩

end Sys2Proof.Machine
end

section
/-! Door and latch inputs, heat, the timers of the press records, and the tailgate release (R26, R27, R33, R45 to R53). -/

namespace Sys2Proof.Machine

variable {s : State}

/-! ### Heat (R33) -/

/-- The latch record of a motor that is energized (R28, R33). -/
theorem energizeLock_latch (l : Latch) (d : Dir) (s : State) : (energizeLock l d s).latches.get l =
    { (s.latches.get l).heatUp s.now with
      driveDue := some (s.now + (s.latches.get l).driveTime), settleDue := none, openLoad := false } :=
  Doors.get_set_self _ _ _

theorem energizeLock_latch_ne {l m : Latch} (h : m ≠ l) (d : Dir) (s : State) :
    (energizeLock l d s).latches.get m = s.latches.get m := Doors.get_set_ne _ _ h

theorem energizeLock_stage (l : Latch) (d : Dir) (s : State) : (energizeLock l d s).stages.get (.lock l) = .drive d :=
  setStage_stage _ _ _

/-- Settles O20. -/
theorem heatCounted : Obligations.HeatCounted := by
  refine ⟨fun l d s h => ?cooled, fun l d s => ?energized⟩
  case cooled =>
    show onTimer (s.latches.get l).coolDue (coolLatch l) s = _
    rw [h, onTimer_due]
    rfl
  case energized =>
    rw [energizeLock_latch]
    refine ⟨rfl, fun h => ?_, fun h => ?_, fun h => if_neg h, fun h => if_pos h, rfl, energizeLock_stage l d s,
      fun m h => energizeLock_latch_ne h d s⟩
    · have : 12 ≤ min 20 ((s.latches.get l).heat + 1) := by omega
      simp [LatchRec.heatUp, this]
    · have : ¬ 12 ≤ min 20 ((s.latches.get l).heat + 1) := by omega
      simp [LatchRec.heatUp, this]

/-! ### AJAR (R26, R51, R53) -/

theorem exec_ajarChange (dt : Time) (l : Latch) (v : Ajar) (h : Awake s) : exec (.ajarChange dt l v) s =
    .next (refreshPark (takeAjar l v (advance dt (s.withPins { s.pins with ajar := s.pins.ajar.set l v })))) :=
  onInput_awake dt (fun p => { p with ajar := p.ajar.set l v }) (takeAjar l v) h

theorem takeAjar_same {l : Latch} {v : Ajar} (h : (s.latches.get l).ajar = v) : takeAjar l v s = s := if_pos h

/-- A door that closes sets its field alone (R26). -/
theorem takeAjar_closed {l : Latch} (h : (s.latches.get l).ajar ≠ .closed) :
    takeAjar l .closed s = s.modLatch l fun r => { r with ajar := .closed } := if_neg h

/-- A door that opens stops auto-relock, and ends retained power or a watch (R9, R51, R53). -/
theorem takeAjar_opened {l : Latch} (h : (s.latches.get l).ajar ≠ .opened) : takeAjar l .opened s =
    (let u := (s.modLatch l fun r => { r with ajar := .opened }).withPresses { s.presses with relockDue := none }
     if l = .fl ∨ l = .fr then u.withCtx { s.ctx with retainedDue := none }
     else if l = .tg ∧ s.release.watchDue.isSome then u.withRelease { s.release with watchDue := none, last := .opened }
     else u) := by
  unfold takeAjar
  rw [if_neg h]
  cases l with
  | fl | fr | rl | rr => rfl
  | tg =>
    show (if _ then _ else _) = (if _ ∧ _ then _ else _)
    simp only [true_and]
    rfl

/-! ### LATCHPOS (R27) -/

theorem exec_latchposChange (dt : Time) (l : Latch) (v : LockPos) (h : Awake s) : exec (.latchposChange dt l v) s =
    .next (refreshPark (takeLatchpos l v (advance dt (s.withPins { s.pins with latchpos := s.pins.latchpos.set l v })))) :=
  onInput_awake dt (fun p => { p with latchpos := p.latchpos.set l v }) (takeLatchpos l v) h

/-- Within a drive the position alone follows (R27). -/
theorem takeLatchpos_driven {l : Latch} {v : LockPos} (h : (s.latches.get l).position ≠ v)
    (hd : (s.drive? (.lock l)).isSome) : takeLatchpos l v s = s.modLatch l fun r => { r with position := v } := by
  have hd' : ((s.modLatch l fun r => { r with position := v }).drive? (.lock l)).isSome := hd
  simp only [takeLatchpos, if_neg h, if_pos hd']

theorem modLatch_get (l : Latch) (f : LatchRec → LatchRec) (s : State) :
    (s.modLatch l f).latches.get l = f (s.latches.get l) := Doors.get_set_self _ _ _

/-- A manual change outside a drive (R27). -/
theorem takeLatchpos_manual {l : Latch} {v : LockPos} (h : (s.latches.get l).position ≠ v)
    (hd : s.drive? (.lock l) = none) (hm : manualState (s.latches.get l).state v ≠ (s.latches.get l).state) :
    takeLatchpos l v s = setLatchState l (manualState (s.latches.get l).state v)
      (offer .lockChanged (s.modLatch l fun r => { r with position := v })) := by
  have hd' : (s.modLatch l fun r => { r with position := v }).drive? (.lock l) = none := hd
  simp [takeLatchpos, h, hd', modLatch_get, hm]

/-- Settles O19. -/
theorem doorInputsTaken : Obligations.DoorInputsTaken := by
  refine ⟨?changed, ?same, ?within, ?manual⟩
  case changed =>
    intro dt l v s h hv
    rw [exec_ajarChange dt l v h]
    cases v with
    | closed => rw [takeAjar_closed (by exact hv)]; rfl
    | opened => rw [takeAjar_opened (by exact hv)]; rfl
  case same =>
    intro dt l v s h hv
    rw [exec_ajarChange dt l v h, takeAjar_same (by exact hv)]
  case within =>
    intro dt l v s h hp hd
    rw [exec_latchposChange dt l v h, takeLatchpos_driven (by exact hp) (by exact hd)]
  case manual =>
    intro dt l v st s h hp hd hst
    have hm : manualState (s.latches.get l).state v = st ∧ st ≠ (s.latches.get l).state := by
      simp only [List.mem_cons, Prod.mk.injEq, List.not_mem_nil, or_false] at hst
      obtain ⟨h1, h2, h3⟩ | ⟨h1, h2, h3⟩ | ⟨h1, h2, h3⟩ := hst <;> simp [h1, h2, h3, manualState]
    obtain ⟨e, hne⟩ := hm
    rw [exec_latchposChange dt l v h, takeLatchpos_manual (by exact hp) (by exact hd) (by exact e ▸ hne)]
    subst e
    rfl

/-! ### The timers of the press records, of the held press and of auto-relock (R45, R46, R50, R51, R130) -/

/-- A held press that is in comfort (R91). -/
theorem endPressComfort_held {h : Held} (ht : s.tracker.held = some h) :
    endPressComfort s = if h.comfort = true then endComfort s else s := by
  simp only [endPressComfort, State.trackerInComfort, ht]

/-- Settles O25. -/
theorem recordTimersExpire : Obligations.RecordTimersExpire := by
  refine ⟨?key, ?fob, ?held, ?comfort, ?relock⟩
  case key =>
    intro r s h
    rw [exec_keyPressTimerExpiry, h]
    rfl
  case fob =>
    intro r s h
    rw [exec_fobPressTimerExpiry, h]
    rfl
  case held =>
    intro h s ht hc
    show onTimer (s.tracker.held.map (·.gapDue)) releaseTracker s = _
    rw [ht, Option.map_some, onTimer_due, releaseTracker, endPressComfort_held (h := h) (by exact ht), hc]
    rfl
  case comfort =>
    intro h s ht hc
    show onTimer (s.tracker.held.map (·.gapDue)) releaseTracker s = _
    rw [ht, Option.map_some, onTimer_due, releaseTracker, endPressComfort_held (h := h) (by exact ht), hc]
    rfl
  case relock =>
    intro d s h
    show onTimer s.presses.relockDue relock s = _
    rw [h, onTimer_due]
    rfl

/-! ### Tailgate release (R52, R53) -/

theorem exec_tailgateRelease (dt : Time) (p : Port) (l : List Byte) (s : State) :
    exec (.tailgateRelease dt p l) s = onRequest dt p 0x23 l tailgateOwner s := rfl

/-- A release request is refused MOVING while the effective speed is MOVING (R52). -/
theorem releaseRequest_moving (c : Cls) (so : Source) (h : s.effSpeed = .moving) :
    releaseRequest c so s = (s, .moving) := if_pos h

/-- Otherwise it is submitted without a group (R52). -/
theorem releaseRequest_standstill (c : Cls) (so : Source) (h : s.effSpeed = .standstill) : releaseRequest c so s =
    (let x := submit { act := .release, dir := .release, cls := c, source := so, mode := none, group := none } s
     (x.1, match x.2 with | .queued => .queued | .merged => .merged | .overruled => .overruled)) := by
  have hm : ¬ s.effSpeed = .moving := by rw [h]; decide
  exact if_neg hm

/-- The class of an origin byte of the lists of R43 and R52. -/
theorem originClass_of_listed {b : Byte} (h : b = 0 ∨ b = 1) :
    originClass b = some (if b = 0 then .comfort else .occupant) := by
  obtain rfl | rfl := h <;> rfl

theorem tailgateOwner_taken {b : Byte} (p : Port) (h : b = 0 ∨ b = 1) : tailgateOwner p [b] s =
    (let x := releaseRequest (if b = 0 then .comfort else .occupant) .bodyPort s
     (x.1, Reply.of x.2)) := by
  simp only [tailgateOwner, originClass_of_listed h]

/-- Settles O26. -/
theorem tailgateReleased : Obligations.TailgateReleased := by
  refine ⟨?moving, ?submitted, ?success, ?openLoad, ?watch⟩
  case moving =>
    intro dt p b s hr ha hb hm
    rw [exec_tailgateRelease, onRequest_admitted dt p 0x23 _ _ hr ha (by simp), tailgateOwner_taken p hb,
      releaseRequest_moving _ _ (by simpa using hm)]
  case submitted =>
    intro dt p b s hr ha hb hm
    rw [exec_tailgateRelease, onRequest_admitted dt p 0x23 _ _ hr ha (by simp), tailgateOwner_taken p hb,
      releaseRequest_standstill _ _ (by simpa using hm)] <;> rfl
  case success | openLoad =>
    intro d s h
    show onTimer s.release.pulseDue (endPulseTime _) s = _
    rw [h, onTimer_due]
    rfl
  case watch =>
    intro d s h
    rw [exec_releaseWatchExpiry, h]
    rfl

end Sys2Proof.Machine
end

section
/-! Lock operations and their sources: LOCK_REQUEST, the central button and the key cylinder (R35, R41 to R45, R51). -/

namespace Sys2Proof.Machine

variable {s : State}

/-! ### The refusals of a lock operation (R35, R41, R42, R51) -/

/-- Auto-relock cancelled, as every lock operation begins (R51). -/
def cancelRelock (s : State) : State := s.withPresses { s.presses with relockDue := none }

/-- A lock operation is carried out unless a check refuses it (R41). -/
theorem lockOperation_eq (op : Operation) (door : Bool) (s : State) : lockOperation op door s =
    match s.lockRefusal op.action.dir door with
    | some r => (cancelRelock s, r, 0)
    | none => runGroup op (cancelRelock s) := rfl

theorem lockOperation_refused {op : Operation} {door : Bool} {r : Result}
    (h : s.lockRefusal op.action.dir door = some r) : lockOperation op door s = (cancelRelock s, r, 0) := by
  rw [lockOperation_eq, h]

theorem lockOperation_passed {op : Operation} {door : Bool}
    (h : s.lockRefusal op.action.dir door = if s.tableFull then some .busy else none) :
    lockOperation op door s = if 6 ≤ s.groups.entries.length then (cancelRelock s, .busy, 0)
      else runGroup op (cancelRelock s) := by
  rw [lockOperation_eq, h]
  by_cases hf : s.tableFull = true
  · rw [if_pos hf, if_pos (tableFull_iff.1 hf)]
  · rw [if_neg hf, if_neg (mt tableFull_iff.2 hf)]

/-- The crash latch and the door check let a request pass. -/
def GatesOpen (s : State) (d : Dir) (door : Bool) : Prop :=
  (s.crash.latched = false ∨ d = .unlock) ∧ ¬ (door = true ∧ (s.latches.get s.driverLatch).ajar = .opened)

theorem lockRefusal_crash {d : Dir} (door : Bool) (hl : s.crash.latched = true) (hd : d ≠ .unlock) :
    s.lockRefusal d door = some .crashActive := by
  simp [State.lockRefusal, hl, hd]

theorem lockRefusal_door {d : Dir} {door : Bool} (hl : s.crash.latched = false ∨ d = .unlock)
    (hd : door = true ∧ (s.latches.get s.driverLatch).ajar = .opened) : s.lockRefusal d door = some .doorOpen := by
  obtain hl | hl := hl <;> simp [State.lockRefusal, State.driverAjar, hl, hd]

/-- Past the crash latch and the door check, a deadlock meets its conditions and any request the table (R41). -/
theorem lockRefusal_gated {d : Dir} {door : Bool} (h : GatesOpen s d door) : s.lockRefusal d door =
    match (if d = .deadlock then s.deadlockRefusal else none) with
    | some r => some r
    | none => if s.tableFull then some .busy else none := by
  have h1 : ¬ (s.crash.latched && d != .unlock) = true := by
    obtain ⟨h | h, -⟩ := h <;> simp [h]
  have h2 : ¬ (door && s.driverAjar) = true := by simpa [State.driverAjar] using h.2
  exact (if_neg h1).trans (if_neg h2)

theorem lockRefusal_deadlock {door : Bool} {r : Result} (h : GatesOpen s .deadlock door)
    (hr : s.deadlockRefusal = some r) : s.lockRefusal .deadlock door = some r := by
  rw [lockRefusal_gated h, if_pos rfl, hr]

theorem lockRefusal_deadlock_passed {door : Bool} (h : GatesOpen s .deadlock door) (hr : s.deadlockRefusal = none) :
    s.lockRefusal .deadlock door = if s.tableFull then some .busy else none := by
  rw [lockRefusal_gated h, if_pos rfl, hr]

theorem lockRefusal_other {d : Dir} {door : Bool} (h : GatesOpen s d door) (hd : d ≠ .deadlock) :
    s.lockRefusal d door = if s.tableFull then some .busy else none := by
  rw [lockRefusal_gated h, if_neg hd]

/-! The four conditions of a deadlock in their order (R42). -/

theorem deadlockRefusal_disabled (h : s.cfg.deadlockEnable = false) : s.deadlockRefusal = some .disabled := by
  simp [State.deadlockRefusal, h]

theorem deadlockRefusal_ignition (h : s.cfg.deadlockEnable = true) (hi : s.ctx.ignition ≠ .off) :
    s.deadlockRefusal = some .ignitionState := by
  simp [State.deadlockRefusal, h, hi]

theorem effSpeed_ne_standstill_iff : s.effSpeed ≠ .standstill ↔ s.ctx.fresh = false ∨ s.ctx.speed = .moving := by
  unfold State.effSpeed
  cases s.ctx.fresh <;> cases s.ctx.speed <;> decide

theorem deadlockRefusal_moving (h : s.cfg.deadlockEnable = true) (hi : s.ctx.ignition = .off)
    (hv : s.effSpeed ≠ .standstill) : s.deadlockRefusal = some .moving := by
  simp [State.deadlockRefusal, h, hi, hv]

theorem Latch.mem_list (l : Latch) : l ∈ Latch.list := by cases l <;> decide

theorem anyAjar_iff : (Latch.list.any fun l => (s.latches.get l).ajar == .opened) = true
    ↔ ∃ l : Latch, (s.latches.get l).ajar = .opened := by
  simp [Latch.mem_list]

theorem deadlockRefusal_doorOpen (h : s.cfg.deadlockEnable = true) (hi : s.ctx.ignition = .off)
    (hv : s.effSpeed = .standstill) (ho : ∃ l : Latch, (s.latches.get l).ajar = .opened) :
    s.deadlockRefusal = some .doorOpen := by
  rw [← anyAjar_iff] at ho
  simp [State.deadlockRefusal, h, hi, hv, ho]

theorem deadlockRefusal_none (h : s.cfg.deadlockEnable = true) (hi : s.ctx.ignition = .off)
    (hv : s.effSpeed = .standstill) (hc : ∀ l : Latch, (s.latches.get l).ajar = .closed) : s.deadlockRefusal = none := by
  simp [State.deadlockRefusal, h, hi, hv, hc]

/-- Settles O22. -/
theorem lockRefusals : Obligations.LockRefusals := by
  intro op door s
  refine ⟨fun hl hd => ?crash, fun hl hs => ?door, fun hd hl hs he => ?disabled, fun hd hl hs he hi => ?ignition,
    fun hd hl hs he hi hv => ?moving, fun hd hl hs he hi hf hv ho => ?opened, fun hd hl hs he hi hf hv hc => ?closed,
    fun hd hl hs => ?lock, fun hd hs => ?unlock⟩
  case crash => exact lockOperation_refused (lockRefusal_crash door hl hd)
  case door => exact lockOperation_refused (lockRefusal_door hl (not_not.1 hs))
  case lock =>
    exact lockOperation_passed (lockRefusal_other ⟨.inl hl, hs⟩ (by rw [hd]; decide))
  case unlock =>
    exact lockOperation_passed (lockRefusal_other ⟨.inr hd, hs⟩ (by rw [hd]; decide))
  case disabled =>
    exact lockOperation_refused (by rw [hd]; exact lockRefusal_deadlock ⟨.inl hl, hs⟩ (deadlockRefusal_disabled he))
  case ignition =>
    exact lockOperation_refused (by rw [hd]; exact lockRefusal_deadlock ⟨.inl hl, hs⟩ (deadlockRefusal_ignition he hi))
  case moving =>
    exact lockOperation_refused (by
      rw [hd]
      exact lockRefusal_deadlock ⟨.inl hl, hs⟩ (deadlockRefusal_moving he hi (effSpeed_ne_standstill_iff.2 hv)))
  case opened =>
    have hv' : s.effSpeed = .standstill := by simp [State.effSpeed, hf, hv]
    exact lockOperation_refused (by
      rw [hd]
      exact lockRefusal_deadlock ⟨.inl hl, hs⟩ (deadlockRefusal_doorOpen he hi hv' ho))
  case closed =>
    have hv' : s.effSpeed = .standstill := by simp [State.effSpeed, hf, hv]
    exact lockOperation_passed (by
      rw [hd]
      exact lockRefusal_deadlock_passed ⟨.inl hl, hs⟩ (deadlockRefusal_none he hi hv' hc))

/-! ### LOCK_REQUEST (R43) -/

theorem exec_lockRequest (dt : Time) (p : Port) (l : List Byte) (s : State) :
    exec (.lockRequest dt p l) s = onRequest dt p 0x20 l lockRequestOwner s := rfl

theorem atOwner_lockTable (dt : Time) (p : Port) (a b : Byte) : (atOwner dt p s).lockTable a b = s.lockTable a b := by
  simp only [State.lockTable, State.driverLatch, atOwner_sys]

theorem lockRequestOwner_taken {t a o x : Byte} {act : Action} {ms : List Actuator} {cls : Cls} {pat : Option (Fin 8)}
    (p : Port) (ht : s.lockTable t a = some (act, ms)) (ho : originClass o = some cls) (hx : patternOf x = some pat) :
    lockRequestOwner p [t, a, o, x] s = groupReply (lockOperation
      { source := .bodyPort, port := some p, cls := cls, action := act, members := ms, pattern := pat } false s) := by
  simp only [lockRequestOwner, ht, ho, hx]

/-- A payload outside the lists is refused, auto-relock being cancelled (log 38). -/
theorem lockRequestOwner_bad (p : Port) (l : List Byte) (h : ∀ a b c d, l = [a, b, c, d] →
    s.lockTable a b = none ∨ originClass c = none ∨ patternOf d = none) :
    lockRequestOwner p l s = refuseGroup .badArgument (cancelRelock s) := by
  unfold lockRequestOwner
  split
  · rename_i a b c d
    dsimp only
    split
    · rename_i ht ho hx
      simpa [ht, ho, hx] using h a b c d rfl
    · rfl
  · rfl

/-- Settles O21. -/
theorem lockRequested : Obligations.LockRequested := by
  refine ⟨?taken, ?bad, fun s => ⟨rfl, rfl, rfl, rfl, rfl, rfl, rfl, rfl, rfl, rfl⟩, fun s => rfl⟩
  case taken =>
    intro dt p t a o x act ms cls pat s hr ha ht ho hx
    rw [exec_lockRequest, onRequest_admitted dt p 0x20 _ _ hr ha (by simp),
      lockRequestOwner_taken p (by rw [atOwner_lockTable]; exact ht) ho hx]
    rfl
  case bad =>
    intro dt p l s hr ha hl h
    rw [exec_lockRequest, onRequest_admitted dt p 0x20 _ _ hr ha hl,
      lockRequestOwner_bad p l (by simpa only [atOwner_lockTable] using h)]
    simp only [refuseGroup, cancelRelock, atOwner_presses]

/-! ### The central button (R44) -/

theorem exec_centralButtonPress (dt : Time) (b : Bool) (h : Awake s) : exec (.centralButtonPress dt b) s =
    .next (refreshPark (if b then takeCentral (advance dt s) else advance dt s)) :=
  onMaskedInput_awake dt 5 id (fun s => if b then takeCentral s else s) h

theorem countsLocked_iff {l : Latch} : s.countsLocked l = true ↔
    (s.latches.get l).state ≠ .unlocked ∧ ∀ d, s.drive? (.lock l) = some d → d.dir ≠ .lock := by
  unfold State.countsLocked
  cases s.drive? (.lock l) <;> simp

/-- The action of the central button (R44). -/
def State.centralAction (s : State) : Action := if s.crash.latched || s.sidesLocked then .unlockAll else .lockAll

theorem centralAction_iff : s.centralAction = .unlockAll ↔ s.crash.latched = true ∨ ∀ l ∈ Latch.sides,
    (s.latches.get l).state ≠ .unlocked ∧ ∀ d, s.drive? (.lock l) = some d → d.dir ≠ .lock := by
  have h : s.sidesLocked = true ↔ ∀ l ∈ Latch.sides, s.countsLocked l = true := List.all_eq_true
  simp only [State.centralAction, ← countsLocked_iff, ← h, ite_eq_left_iff, Bool.or_eq_true, reduceCtorEq, imp_false,
    not_not]

theorem centralAction_cases (s : State) : s.centralAction = .unlockAll ∨ s.centralAction = .lockAll := by
  unfold State.centralAction
  split
  · exact .inl rfl
  · exact .inr rfl

/-- The patterns of the actions of central button and key cylinder (R39). -/
theorem pattern_all {a : Action} (h : a = .unlockAll ∨ a = .lockAll) :
    a.pattern = some (if a = .unlockAll then 1 else 0) := by
  obtain rfl | rfl := h <;> rfl

theorem takeCentral_eq (s : State) : takeCentral s = (lockOperation
    { source := .centralButton, port := none, cls := .occupant, action := s.centralAction, members := Latch.list.map .lock
      pattern := some (if s.centralAction = .unlockAll then 1 else 0) } false s).1 := by
  rw [← pattern_all (centralAction_cases s)]
  rfl

/-! ### The key cylinder (R45) -/

/-- The pins after a change of a key cylinder input. -/
def keyPins (k : KeyDir) (active : Bool) (p : Pins) : Pins :=
  match k with
  | .lock => { p with keyLock := active }
  | .unlock => { p with keyUnlock := active }

theorem exec_keyCylinderTurn (dt : Time) (k : KeyDir) (active : Bool) (h : Awake s) :
    exec (.keyCylinderTurn dt k active) s =
      .next (refreshPark (takeKeyInput k active s.pins (advance dt (s.withPins (keyPins k active s.pins))))) :=
  onMaskedInput_awake dt 5 (keyPins k active) (takeKeyInput k active s.pins) h

theorem takeKeyInput_turn {k : KeyDir} {before : Pins} (hl : before.keyLock = false) (hu : before.keyUnlock = false) :
    takeKeyInput k true before s = takeTurn k s := by
  cases k <;> simp [takeKeyInput, hl, hu]

theorem takeKeyInput_other {k : KeyDir} {active : Bool} {before : Pins}
    (h : active = false ∨ before.keyLock = true ∨ before.keyUnlock = true) : takeKeyInput k active before s = s := by
  obtain h | h | h := h <;> cases k <;> simp [takeKeyInput, h]

/-- The action of a turn, its members and its pattern; `armed` says that the record is armed for the same way (R39, R45). -/
def State.turnOp (s : State) : KeyDir → Bool → Action × List Actuator × Fin 8
  | .lock, false => (.lockAll, Latch.list.map .lock, 0)
  | .lock, true => (.deadlockAll, Latch.sides.map .lock, 2)
  | .unlock, false => (.unlockDriver, [.lock s.driverLatch], 1)
  | .unlock, true => (.unlockAll, Latch.list.map .lock, 1)

/-- The record is armed for a second turn this way (R45). -/
def State.armedFor (s : State) (k : KeyDir) : Bool := s.presses.key.any (·.armed == k)

theorem turn_eq (k : KeyDir) (s : State) : s.turn k = ((s.turnOp k (s.armedFor k)).1, (s.turnOp k (s.armedFor k)).2.1,
    if s.armedFor k then none else some { armed := k, due := s.now + sec 3 }) := by
  have h : (s.presses.key.map (·.armed) = some k) ↔ s.armedFor k = true := by
    simp [State.armedFor, Option.any_eq_true, Option.map_eq_some_iff]
  cases k <;> simp only [State.turn, h] <;> cases s.armedFor _ <;> rfl

theorem takeTurn_eq (k : KeyDir) (s : State) : takeTurn k s =
    (let op := s.turnOp k (s.armedFor k)
     let x := lockOperation { source := .keyCylinder, port := none, cls := .occupant, action := op.1, members := op.2.1
                              pattern := some op.2.2 } false s
     x.1.withPresses { x.1.presses with
       key := if s.armedFor k || (!x.2.1.accepts && x.2.1 != .overruled) then none
              else some { armed := k, due := s.now + sec 3 } }) := by
  have hp : (s.turnOp k (s.armedFor k)).1.pattern = some (s.turnOp k (s.armedFor k)).2.2 := by
    cases k <;> cases s.armedFor _ <;> rfl
  unfold takeTurn
  simp only [turn_eq, occupantOp, hp]
  cases s.armedFor k <;> simp

/-- Settles O24. -/
theorem centralAndKeyPressed : Obligations.CentralAndKeyPressed := by
  refine ⟨?central, ?released, ?turn, ?other⟩
  case central =>
    intro dt s h
    refine ⟨(advance dt s).centralAction, centralAction_iff, centralAction_cases _, ?_⟩
    rw [exec_centralButtonPress dt true h, if_pos rfl, takeCentral_eq]
  case released =>
    intro dt s h
    rw [exec_centralButtonPress dt false h]
    rfl
  case turn =>
    intro dt k s h hl hu
    rw [exec_keyCylinderTurn dt k true h, takeKeyInput_turn hl hu, takeTurn_eq]
    have ha : (advance dt (s.withPins (keyPins k true s.pins))).armedFor k = s.presses.key.any (·.armed == k) := rfl
    rw [ha]
    cases k <;> cases s.presses.key.any _ <;> rfl
  case other =>
    intro dt k active s h ho
    rw [exec_keyCylinderTurn dt k active h, takeKeyInput_other ho]
    cases k <;> rfl

end Sys2Proof.Machine
end

section
/-! Telegrams, the held press and comfort, and the fob, passive and ignition actions (R46 to R49, R52, R90, R91, R118 to
R129). -/

namespace Sys2Proof.Machine

variable {s : State}

/-! ### The slot that an identifier finds (R118) -/

theorem SlotId.mem_list (k : SlotId) : k ∈ SlotId.list := by cases k <;> decide

theorem findFob_some {i : Word32} {k : SlotId} (h : s.findFob i = some k) :
    (s.fobs.get k).enrolled = true ∧ (s.fobs.get k).ident = i := by
  simpa using List.find?_some h

theorem findFob_eq_none {i : Word32} :
    s.findFob i = none ↔ ∀ k : SlotId, (s.fobs.get k).enrolled = true → (s.fobs.get k).ident ≠ i := by
  simp [State.findFob, SlotId.mem_list]

theorem enrolled_iff {f : Fob} : f.enrolled = true ↔ f.state = .active ∨ f.state = .suspended := by
  simp [Fob.enrolled]

theorem atOwner_findFob (dt : Time) (p : Port) (i : Word32) : (atOwner dt p s).findFob i = s.findFob i := by
  simp only [State.findFob, atOwner_fobs]

theorem atOwner_judgeTelegram (dt : Time) (p : Port) (k : SlotId) (c : Word32) (b : Button) (n : Nat) :
    (atOwner dt p s).judgeTelegram k c b n = s.judgeTelegram k c b n := by
  unfold State.judgeTelegram State.follows
  rw [atOwner_fobs, atOwner_cfg, atOwner_tracker]

/-! ### The slot update of an accepted press (R120, R124) -/

theorem modFob_get (k : SlotId) (f : Fob → Fob) (s : State) : (s.modFob k f).fobs.get k = f (s.fobs.get k) :=
  Slots.get_set_self _ _ _

theorem modFob_get_ne {k j : SlotId} (h : j ≠ k) (f : Fob → Fob) (s : State) :
    (s.modFob k f).fobs.get j = s.fobs.get j := Slots.get_set_ne _ _ h

/-- The slot after an accepted press (R120). -/
def pressedFob (c : Word32) (b : Button) (v : Verdict) (now : Time) (f : Fob) : Fob :=
  { f with counter := c, resync := none, failures := 0, verdict := v
           press := some { button := b, counter := c, time := now, repeatSeen := false }
           ceiling := if atCeiling c f.ceiling then c + 32 else f.ceiling }

/-- The slot update before its capture: the row is queued when the counter has reached the ceiling (R120). -/
def pressedSlot (k : SlotId) (c : Word32) (b : Button) (v : Verdict) (s : State) : State :=
  let u := s.modFob k (pressedFob c b v s.now)
  if atCeiling c (s.fobs.get k).ceiling then writeFob k u else u

theorem acceptPress_eq (k : SlotId) (c : Word32) (b : Button) (v : Verdict) (s : State) :
    acceptPress k c b v s = offer .telegramAccepted (pressedSlot k c b v s) := by
  unfold acceptPress pressedSlot
  cases h : atCeiling c (s.fobs.get k).ceiling <;> simp [State.modFob, pressedFob, h]

theorem pressedSlot_records (k : SlotId) (c : Word32) (b : Button) (v : Verdict) (s : State) :
    Records (s.modFob k (pressedFob c b v s.now)) (pressedSlot k c b v s) := by
  unfold pressedSlot
  dsimp only
  split
  · exact Records.storeWrite _ _ _
  · exact Records.refl _

theorem acceptPress_fobs (k : SlotId) (c : Word32) (b : Button) (v : Verdict) (s : State) :
    (acceptPress k c b v s).fobs = (s.modFob k (pressedFob c b v s.now)).fobs := by
  rw [acceptPress_eq]
  exact ((pressedSlot_records k c b v s).trans (Records.offer _ _)).fobs

/-- An offer leaves the store. -/
theorem offer_store (e : Ev) (s : State) : (offer e s).store = s.store := by
  unfold offer wake
  split <;> rfl

/-- In RUN an accepted press captures TELEGRAM_ACCEPTED alone (R124). -/
theorem acceptPress_captured (k : SlotId) (c : Word32) (b : Button) (v : Verdict) (h : s.sys.mode = .run) (q : Port) :
    ((acceptPress k c b v s).events.get q).captured =
      (s.events.get q).captured ||| (Ev.telegramAccepted.bit &&& (s.events.get q).mask) := by
  have hs : (pressedSlot k c b v s).sys = s.sys :=
    ((pressedSlot_records k c b v s).awake (by rw [State.modFob, State.withFobs_sys, h]; decide)).1
  have he : (pressedSlot k c b v s).events = s.events := by
    unfold pressedSlot
    dsimp only
    split
    · exact storeWrite_events _ _ h
    · rfl
  rw [acceptPress_eq, offer_run (by rw [hs]; exact h), captureAll_get, he]
  rfl

/-- The row of the slot is queued when the counter has reached the ceiling (R120). -/
theorem acceptPress_queued {k : SlotId} {c : Word32} (b : Button) (v : Verdict)
    (h : atCeiling c (s.fobs.get k).ceiling = true) (hv : s.store.shadows[k.row].isVolatile = false) :
    k.row ∈ (acceptPress k c b v s).store.queue := by
  rw [acceptPress_eq, offer_store, pressedSlot, if_pos h, writeFob, storeWrite_store]
  have hv' : (s.modFob k (pressedFob c b v s.now)).store.shadows[k.row].isVolatile = false := hv
  simp only [hv', Bool.false_eq_true, false_or]
  split
  · assumption
  · exact List.mem_append_right _ (List.mem_singleton_self _)

/-! ### Held press and comfort (R90, R91, R127 to R129) -/

theorem trackerInComfort_iff : s.trackerInComfort = true ↔ s.tracker.held.any (·.comfort) = true := by
  unfold State.trackerInComfort
  cases s.tracker.held <;> rfl

/-- The test by which a repeat starts comfort (R129). -/
def comfortBegins (s : State) (h : Held) (first : Time) : Prop :=
  h.comfort = false ∧ s.tracker.eligible = true ∧ s.tracker.holdTime ≤ s.now - first ∧ s.crash.latched = false

/-- The tracker after a repeat, before a comfort that it starts (R129). -/
def keepHeld (h : Held) (comfort : Bool) (s : State) : State :=
  s.withTracker { s.tracker with held := some { h with gapDue := s.now + msec 300, comfort := comfort } }

theorem trackRepeat_held {k : SlotId} {h : Held} {x : LastPress} (ht : s.tracker.held = some h)
    (hx : (s.fobs.get k).press = some x) : trackRepeat k s =
      (let begins := !h.comfort && s.tracker.eligible && s.tracker.holdTime ≤ s.now - x.time && !s.crash.latched
       let u := keepHeld h (h.comfort || begins) s
       if begins then startComfort (if h.button = .lock then .up else .down) u else u) := by
  simp only [trackRepeat, ht, hx]
  rfl

theorem trackRepeat_begins {k : SlotId} {h : Held} {x : LastPress} (ht : s.tracker.held = some h)
    (hx : (s.fobs.get k).press = some x) (hb : comfortBegins s h x.time) :
    trackRepeat k s = startComfort (if h.button = .lock then .up else .down) (keepHeld h true s) := by
  obtain ⟨hc, he, hh, hl⟩ := hb
  rw [trackRepeat_held ht hx]
  simp [hc, he, hh, hl]

theorem trackRepeat_waits {k : SlotId} {h : Held} {x : LastPress} (ht : s.tracker.held = some h)
    (hx : (s.fobs.get k).press = some x) (hb : ¬ comfortBegins s h x.time) :
    trackRepeat k s = keepHeld h h.comfort s := by
  have hf : (!h.comfort && s.tracker.eligible && s.tracker.holdTime ≤ s.now - x.time && !s.crash.latched) = false := by
    simpa [comfortBegins] using hb
  rw [trackRepeat_held ht hx]
  simp [hf]

theorem comfortWindow_admitted {d : WDir} {w : Win} {m : WMode} (h : s.admission w .comfort d .auto = .go m) :
    comfortWindow d w s = (applyStart w { dir := d, mode := m, cls := .access, source := .comfort } s).1 := by
  simp only [comfortWindow, h]

theorem comfortWindow_refused {d : WDir} {w : Win} (h : ∀ m, s.admission w .comfort d .auto ≠ .go m) :
    comfortWindow d w s = s := by
  unfold comfortWindow
  split
  · rename_i m hm
    exact absurd hm (h m)
  · rfl

/-! ### ACCESS_TELEGRAM (R117 to R126) -/

theorem exec_accessTelegram (dt : Time) (p : Port) (l : List Byte) (s : State) :
    exec (.accessTelegram dt p l) s = onRequest dt p 0x40 l telegramOwner s := rfl

theorem telegramOwner_read {b n : Byte} {button : Button} (p : Port) (i3 i2 i1 i0 c3 c2 c1 c0 : Byte)
    (hb : buttonOf b = some button) (hn : n.toNat ≤ 15) :
    telegramOwner p [i3, i2, i1, i0, c3, c2, c1, c0, b, n] s =
      takeTelegram p (word32 i3 i2 i1 i0) (word32 c3 c2 c1 c0) button n.toNat s := by
  simp only [telegramOwner, hb, if_pos hn]

theorem takeTelegram_accepted {i c : Word32} {b : Button} {n : Nat} {k : SlotId} {v : Verdict} (p : Port)
    (hf : s.findFob i = some k) (hs : (s.fobs.get k).state ≠ .suspended) (hv : v = .accepted ∨ v = .resynced)
    (hj : s.judgeTelegram k c b n = v) : takeTelegram p i c b n s = newPress p k c b v s := by
  obtain rfl | rfl := hv <;> simp only [takeTelegram, hf, if_neg hs, hj]

theorem takeTelegram_repeated {i c : Word32} {b : Button} {n : Nat} {k : SlotId} (p : Port)
    (hf : s.findFob i = some k) (hs : (s.fobs.get k).state ≠ .suspended)
    (hj : s.judgeTelegram k c b n = .repeated) : takeTelegram p i c b n s = repeatPress k s := by
  simp only [takeTelegram, hf, if_neg hs, hj]

/-- Settles O40. -/
theorem telegramAccepted : Obligations.TelegramAccepted := by
  refine ⟨?accepted, ?slot, ?repeated, fun p k s => ⟨rfl, rfl, fun h => ?moving, fun h => ?release⟩,
    fun i s => ⟨fun k => findFob_some, findFob_eq_none, fun k => enrolled_iff⟩⟩
  case accepted =>
    intro dt p i3 i2 i1 i0 c3 c2 c1 c0 b n button k v s hr ha hb hn hf hs hv hj
    rw [exec_accessTelegram, onRequest_admitted dt p 0x40 _ _ hr ha (by simp), telegramOwner_read p _ _ _ _ _ _ _ _ hb hn,
      takeTelegram_accepted p (by rw [atOwner_findFob]; exact hf) (by rw [atOwner_fobs]; exact hs) hv
        (by rw [atOwner_judgeTelegram]; exact hj)]
    rfl
  case slot =>
    intro k c b v s
    have hk : (acceptPress k c b v s).fobs.get k = pressedFob c b v s.now (s.fobs.get k) := by
      rw [acceptPress_fobs, modFob_get]
    rw [hk]
    refine ⟨rfl, rfl, rfl, rfl, rfl, rfl, rfl, rfl, rfl, fun h q => acceptPress_captured k c b v h q, fun h => ?_,
      fun h => ?_, fun j hj => by rw [acceptPress_fobs, modFob_get_ne hj]⟩
    · have hc : atCeiling c (s.fobs.get k).ceiling = true := decide_eq_true h
      exact ⟨if_pos hc, acceptPress_queued b v hc⟩
    · have hc : ¬ atCeiling c (s.fobs.get k).ceiling = true :=
        fun e => absurd (of_decide_eq_true e) (Nat.not_lt.2 h)
      exact if_neg hc
  case repeated =>
    intro dt p i3 i2 i1 i0 c3 c2 c1 c0 b n button k s hr ha hb hn hf hs hj
    rw [exec_accessTelegram, onRequest_admitted dt p 0x40 _ _ hr ha (by simp), telegramOwner_read p _ _ _ _ _ _ _ _ hb hn,
      takeTelegram_repeated p (by rw [atOwner_findFob]; exact hf) (by rw [atOwner_fobs]; exact hs)
        (by rw [atOwner_judgeTelegram]; exact hj)]
    have hseen : ((atOwner dt p s).fobs.get k).press.any (!·.repeatSeen)
        = (s.fobs.get k).press.any (fun x => x.repeatSeen = false) := by
      rw [atOwner_fobs]
      cases (s.fobs.get k).press <;> simp
    simp only [repeatPress, hseen]
    rfl
  case moving => simp only [pressAction, releaseRequest_moving _ _ h]
  case release =>
    exact congrArg (fun x : State × Result => (x.1, x.2, 0)) (releaseRequest_standstill .access .fob h)

/-! ### Fob actions (R46, R47) -/

/-- The record of a fob press is at its second press (R46). -/
def State.secondPress (s : State) (k : SlotId) (b : KeyDir) : Bool :=
  s.presses.fob.any fun r => r.slot == k && r.button == b

/-- The action of a fob press and its members (R46, R47). -/
def State.pressOp (s : State) : KeyDir → UnlockMode → Bool → Action × List Actuator
  | .lock, _, false => (.lockAll, Latch.list.map .lock)
  | .lock, _, true => (.deadlockAll, Latch.sides.map .lock)
  | .unlock, .selective, false => (.unlockDriver, [.lock s.driverLatch])
  | .unlock, _, _ => (.unlockAll, Latch.list.map .lock)

/-- A press that the record keeps for a second one (R46, R47). -/
def keepsPress (b : KeyDir) (m : UnlockMode) (second : Bool) : Bool := !second && (b == .lock || m == .selective)

theorem fobOp_eq (k : SlotId) (b : KeyDir) (m : UnlockMode) (s : State) : s.fobOp k b m =
    ((s.pressOp b m (s.secondPress k b)).1, (s.pressOp b m (s.secondPress k b)).2,
      if keepsPress b m (s.secondPress k b) then some { slot := k, button := b, due := s.now + sec 3 } else none) := by
  unfold State.fobOp State.secondPress
  cases b <;> cases m <;> cases s.presses.fob.any _ <;> rfl

/-- The pattern of a fob action, and whether it asks for the door check (R39, R47). -/
theorem pressOp_pattern (b : KeyDir) (m : UnlockMode) (second : Bool) (s : State) :
    (s.pressOp b m second).1.pattern = some (if (s.pressOp b m second).1 = .lockAll then 0
        else if (s.pressOp b m second).1 = .deadlockAll then 2 else 1)
      ∧ ((s.pressOp b m second).1 == .lockAll) = (b == .lock && !second) := by
  cases b <;> cases m <;> cases second <;> exact ⟨rfl, rfl⟩

theorem fobAction_ignition {k : SlotId} {b : KeyDir} {m : UnlockMode} (p : Port) (h : s.ctx.ignition ≠ .off) :
    fobAction p k b m s = (s.withPresses { s.presses with relockDue := none, fob := none }, .ignitionState, 0) := by
  simp only [fobAction, if_pos h]
  rfl

theorem fobAction_off {k : SlotId} {b : KeyDir} {m : UnlockMode} (p : Port) (h : s.ctx.ignition = .off) :
    fobAction p k b m s =
      (let op := s.pressOp b m (s.secondPress k b)
       let x := lockOperation { source := .fob, port := some p, cls := .access, action := op.1, members := op.2
                                pattern := some (if op.1 = .lockAll then 0 else if op.1 = .deadlockAll then 2 else 1) }
         (b == .lock && !s.secondPress k b) s
       (x.1.withPresses { x.1.presses with
          fob := if keepsPress b m (s.secondPress k b) && x.2.1.accepts then
              some { slot := k, button := b, due := s.now + sec 3 } else none }, x.2.1, x.2.2)) := by
  obtain ⟨hp, hd⟩ := pressOp_pattern b m (s.secondPress k b) s
  unfold fobAction
  simp only [fobOp_eq, if_neg (not_not.2 h), occupantOp, hp, hd]
  cases keepsPress b m (s.secondPress k b) <;> simp

/-! ### The release from deadlock at an ignition change (R49) -/

theorem ignitionRelease_none (h : s.deadlockMembers = []) : ignitionRelease s = cancelRelock s := by
  have h' : (cancelRelock s).deadlockMembers = [] := h
  unfold ignitionRelease
  change (match (cancelRelock s).deadlockMembers with | [] => _ | ms => _) = _
  rw [h'] <;> rfl

theorem ignitionRelease_some (h : s.deadlockMembers ≠ []) : ignitionRelease s =
    (runInternal { source := .ignition, port := none, cls := .occupant, action := .unlockAll
                   members := s.deadlockMembers, pattern := none } (cancelRelock s)).1 := by
  obtain ⟨a, l, e⟩ := List.exists_cons_of_ne_nil h
  have h' : (cancelRelock s).deadlockMembers = a :: l := e
  unfold ignitionRelease
  change (match (cancelRelock s).deadlockMembers with | [] => _ | ms => _) = _
  rw [h', e] <;> rfl

/-- Settles O41. -/
theorem occupantActions : Obligations.OccupantActions := by
  refine ⟨?fob, ?passive, ?ignition, ?track, ?repeats, fun d s => rfl,
    fun d w s => ⟨fun m => comfortWindow_admitted, comfortWindow_refused⟩, fun s => rfl⟩
  case fob =>
    intro p k b m s
    refine ⟨fobAction_ignition p, fun h => ?_⟩
    rw [fobAction_off p h]
    have hs : s.secondPress k b = s.presses.fob.any fun r => r.slot == k && r.button == b := rfl
    rw [hs]
    cases b <;> cases m <;> cases s.presses.fob.any _ <;> rfl
  case passive =>
    intro p o m s
    refine ⟨?_, ?_, ?_, ?_, ?_, ?_⟩
    · rintro (rfl | rfl) <;> rfl
    · rintro rfl rfl; rfl
    · rintro rfl rfl; rfl
    · rintro (rfl | rfl) rfl <;> rfl
    · rintro rfl h
      simp only [passiveAction, releaseRequest_moving _ _ h]
    · rintro rfl h
      exact congrArg (fun x : State × Result => (x.1, x.2, 0)) (releaseRequest_standstill .access .passive h)
  case ignition => exact fun s => ⟨ignitionRelease_none, ignitionRelease_some⟩
  case track =>
    intro k b s
    refine ⟨_, rfl, rfl, ?_⟩
    unfold trackPress endPressComfort
    simp only [trackerInComfort_iff]
    rfl
  case repeats =>
    exact fun k h x s ht hx => ⟨trackRepeat_begins ht hx, trackRepeat_waits ht hx⟩

end Sys2Proof.Machine
end

section
/-! The start-up scan: claims, the condition of each physical row, the places of the lost rows and the configuration image
(R168, R177 to R179). -/

namespace Sys2Proof.Machine

variable {s : State}

/-! ### Claims (R168, R177) -/

theorem newer_iff (a b : Byte) : newer a b = true ↔ 1 ≤ (a - b).toNat ∧ (a - b).toNat ≤ 127 := by
  simp [newer]

theorem mem_claimsOf {array : Vector PhysRow 48} {c : Claim} :
    c ∈ claimsOf array ↔ array[c.phys].claim = some (c.row, c.generation, c.payload) := by
  simp only [claimsOf, List.mem_filterMap, List.mem_finRange, true_and, Option.map_eq_some_iff]
  constructor
  · rintro ⟨r, x, h, rfl⟩
    exact h
  · exact fun h => ⟨c.phys, _, h, rfl⟩

theorem claimsOf_ascending (array : Vector PhysRow 48) : (claimsOf array).Pairwise fun a b => a.phys < b.phys := by
  refine List.Pairwise.filterMap (R := (· < ·)) _ (fun a b hab x hx y hy => ?_) (List.pairwise_lt_finRange 48)
  obtain ⟨_, -, rfl⟩ := Option.map_eq_some_iff.1 hx
  obtain ⟨_, -, rfl⟩ := Option.map_eq_some_iff.1 hy
  exact hab

/-- A physical row makes one claim at most. -/
theorem claim_unique {array : Vector PhysRow 48} {c d : Claim} (hc : c ∈ claimsOf array) (hd : d ∈ claimsOf array)
    (h : c.phys = d.phys) : c = d := by
  rw [mem_claimsOf] at hc hd
  obtain ⟨p, r, g, b⟩ := c
  obtain ⟨p', r', g', b'⟩ := d
  cases h
  rw [hc] at hd
  cases hd
  rfl

theorem winningClaim_append (cs : List Claim) (c : Claim) (l : LRow) : winningClaim (cs ++ [c]) l =
    if c.row = l then
      (match winningClaim cs l with
       | none => some c
       | some h => if newer c.generation h.generation then some c else some h)
    else winningClaim cs l := by
  unfold winningClaim
  by_cases h : c.row = l
  · simp only [List.filter_append, List.filter_singleton, h, beq_self_eq_true, cond_true, List.foldl_append,
      List.foldl_cons, List.foldl_nil, if_true] <;> rfl
  · simp [List.filter_append, h]

theorem winningClaim_mem {cs : List Claim} {l : LRow} : ∀ {c : Claim}, winningClaim cs l = some c → c ∈ cs ∧ c.row = l := by
  induction cs using List.reverseRecOn with
  | nil => intro c h; cases h
  | append_singleton cs d ih =>
    intro c h
    rw [winningClaim_append] at h
    split at h
    · rename_i hd
      have hdc : d = c → c ∈ cs ++ [d] ∧ c.row = l := by rintro rfl; exact ⟨by simp, hd⟩
      split at h
      · exact hdc (Option.some.inj h)
      · rename_i x hx
        split at h
        · exact hdc (Option.some.inj h)
        · exact ⟨List.mem_append_left _ (ih (hx.trans h)).1, (ih (hx.trans h)).2⟩
    · exact ⟨List.mem_append_left _ (ih h).1, (ih h).2⟩

/-! ### The condition of a physical row (R178) -/

/-- No claim stands in a physical row. -/
def Unclaimed (cs : List Claim) (r : PRow) : Prop := ∀ x ∈ cs, x.phys ≠ r

theorem find_claim {array : Vector PhysRow 48} {c : Claim} (h : c ∈ claimsOf array) :
    (claimsOf array).find? (·.phys == c.phys) = some c := by
  cases hf : (claimsOf array).find? (·.phys == c.phys) with
  | none => exact absurd (beq_self_eq_true c.phys) (List.find?_eq_none.1 hf c h)
  | some d =>
    have hd : d.phys = c.phys := by simpa using List.find?_some hf
    rw [claim_unique (List.mem_of_find?_eq_some hf) h hd]

theorem find_unclaimed {cs : List Claim} {r : PRow} (h : Unclaimed cs r) : cs.find? (·.phys == r) = none :=
  List.find?_eq_none.2 fun x hx => by simpa using h x hx

theorem scannedCond_winner {array : Vector PhysRow 48} {l : LRow} {c : Claim}
    (h : winningClaim (claimsOf array) l = some c) : scannedCond (claimsOf array) c.phys = .inUse := by
  obtain ⟨hc, rfl⟩ := winningClaim_mem h
  simp [scannedCond, find_claim hc, h]

theorem scannedCond_loser {array : Vector PhysRow 48} {c : Claim} (hc : c ∈ claimsOf array)
    (h : winningClaim (claimsOf array) c.row ≠ some c) : scannedCond (claimsOf array) c.phys = .retired := by
  have hn : ¬ (winningClaim (claimsOf array) c.row).any (·.phys == c.phys) = true := by
    intro ha
    obtain ⟨d, hd, e⟩ := Option.any_eq_true_iff_get _ _ |>.1 ha |> fun ⟨i, j⟩ => (⟨_, Option.eq_some_of_isSome i, j⟩ :
      ∃ d, winningClaim (claimsOf array) c.row = some d ∧ (d.phys == c.phys) = true)
    have := claim_unique (winningClaim_mem hd).1 hc (by simpa using e)
    exact h (this ▸ hd)
  simp only [scannedCond, find_claim hc, if_neg hn]

theorem homeRow_lt (l : LRow) : (homeRow l).val < 35 := l.isLt

theorem homeRow_inj {l m : LRow} (h : homeRow l = homeRow m) : l = m := Fin.castLE_injective _ h

/-- The condition of a home row that makes no claim (R178). -/
theorem scannedCond_home {cs : List Claim} {l : LRow} (h : Unclaimed cs (homeRow l)) :
    scannedCond cs (homeRow l) = if (winningClaim cs l).isSome then .retired else .inUse := by
  simp only [scannedCond, find_unclaimed h, homeRow_lt, dif_pos]
  rfl

/-- A spare that makes no claim is FREE at first, and nothing else is (R178). -/
theorem scannedCond_free {cs : List Claim} {r : PRow} : scannedCond cs r = .free ↔ 35 ≤ r.val ∧ Unclaimed cs r := by
  constructor
  · intro h
    unfold scannedCond at h
    split at h
    · split at h <;> cases h
    · rename_i hf
      split at h
      · split at h <;> cases h
      · rename_i hr
        exact ⟨Nat.le_of_not_lt hr, fun x hx => by simpa using List.find?_eq_none.1 hf x hx⟩
  · rintro ⟨hr, hu⟩
    simp only [scannedCond, find_unclaimed hu, dif_neg (Nat.not_lt.2 hr)]

theorem home_not_free (cs : List Claim) (l : LRow) : scannedCond cs (homeRow l) ≠ .free := fun h =>
  absurd (scannedCond_free.1 h).1 (Nat.not_le.2 (homeRow_lt l))

/-! ### The places of the lost rows (R178; log 44) -/

/-- `m'` is `m` with FREE rows taken at most. -/
def RowsTaken (m m' : Vector RowCond 48) : Prop := ∀ r : PRow, m'[r] = m[r] ∨ m[r] = .free ∧ m'[r] = .inUse

theorem RowsTaken.not_free {m m' : Vector RowCond 48} (h : RowsTaken m m') {r : PRow} (hr : m[r] ≠ .free) :
    m'[r] ≠ .free := by
  obtain h | ⟨h, -⟩ := h r
  · rwa [h]
  · exact absurd h hr

theorem RowsTaken.inUse {m m' : Vector RowCond 48} (h : RowsTaken m m') {r : PRow} (hr : m[r] = .inUse) :
    m'[r] = .inUse := by
  obtain h | ⟨-, h⟩ := h r
  · rwa [h]
  · exact h

/-- The place of a lost row in the map: its home, the lowest spare that was FREE when the row was placed, or none. -/
inductive LostPlace (cs : List Claim) (l : LRow) (m : Vector RowCond 48) (h : Shadow) : Prop
  | home (free : Unclaimed cs (homeRow l)) (current : h.current = homeRow l) (kept : h.isVolatile = false)
  | spare (claimed : ¬ Unclaimed cs (homeRow l)) (kept : h.isVolatile = false) (free : scannedCond cs h.current = .free)
      (taken : m[h.current] = .inUse) (lowest : ∀ r : PRow, r < h.current → m[r] ≠ .free)
  | nowhere (claimed : ¬ Unclaimed cs (homeRow l)) (current : h.current = homeRow l) (gone : h.isVolatile = true)
      (full : ∀ r : PRow, m[r] ≠ .free)

theorem LostPlace.mono {cs : List Claim} {l : LRow} {m m' : Vector RowCond 48} {h : Shadow} (hp : LostPlace cs l m h)
    (ht : RowsTaken m m') : LostPlace cs l m' h := by
  cases hp with
  | home hu hc hv => exact .home hu hc hv
  | spare hu hv hf hi hl => exact .spare hu hv hf (ht.inUse hi) fun r hr => ht.not_free (hl r hr)
  | nowhere hu hc hv hf => exact .nowhere hu hc hv fun r => ht.not_free (hf r)

/-- A spare held by a lost row is IN_USE. -/
theorem LostPlace.held {cs : List Claim} {l : LRow} {m : Vector RowCond 48} {h : Shadow} (hp : LostPlace cs l m h)
    {q : PRow} (hq : h.current = q) (hf : scannedCond cs q = .free) : m[q] = .inUse := by
  subst hq
  cases hp with
  | home _ hc _ => exact absurd (hc ▸ hf) (home_not_free cs l)
  | spare _ _ _ hi _ => exact hi
  | nowhere _ hc _ _ => exact absurd (hc ▸ hf) (home_not_free cs l)

/-- A lost row that is not volatile holds its home, or a spare that was FREE before the lost rows were placed. -/
theorem LostPlace.kept_current {cs : List Claim} {l : LRow} {m : Vector RowCond 48} {h : Shadow}
    (hp : LostPlace cs l m h) (hv : h.isVolatile = false) :
    h.current = homeRow l ∨ scannedCond cs h.current = .free := by
  cases hp with
  | home _ hc _ => exact .inl hc
  | spare _ _ hf _ _ => exact .inr hf
  | nowhere _ _ hg _ => rw [hv] at hg; cases hg

/-- The shadow that a winning claim loads (R177). -/
def Claim.shadow (c : Claim) : Shadow :=
  { content := c.payload, current := c.phys, generation := c.generation, isVolatile := false }

/-- Map and shadows with the logical rows `done` scanned. -/
structure Scanned (cs : List Claim) (done : List LRow) (x : Vector RowCond 48 × Vector Shadow 35) : Prop where
  won : ∀ l ∈ done, ∀ c, winningClaim cs l = some c → x.2[l] = c.shadow
  lost : ∀ l ∈ done, winningClaim cs l = none →
    x.2[l].content = defaultContent l ∧ x.2[l].generation = 0 ∧ LostPlace cs l x.1 x.2[l]
  cond : ∀ r : PRow, x.1[r] = scannedCond cs r
    ∨ scannedCond cs r = .free ∧ x.1[r] = .inUse ∧ ∃ l ∈ done, winningClaim cs l = none ∧ x.2[l].current = r
  apart : ∀ l ∈ done, ∀ m ∈ done, l ≠ m → winningClaim cs l = none → winningClaim cs m = none →
    scannedCond cs x.2[l].current = .free → x.2[l].current ≠ x.2[m].current

theorem scanned_nil (cs : List Claim) (sh : Vector Shadow 35) : Scanned cs [] (tableOf 48 (scannedCond cs), sh) where
  won := by simp
  lost := by simp
  cond r := .inl (tableOf_get 48 _ r)
  apart := by simp

/-- One more row scanned: its shadow `n`, and the map with the spare it may take. -/
theorem Scanned.snoc {cs : List Claim} {done : List LRow} {x : Vector RowCond 48 × Vector Shadow 35} {l : LRow}
    {m : Vector RowCond 48} {n : Shadow} (h : Scanned cs done x) (hl : l ∉ done)
    (hm : ∀ r : PRow, m[r] = x.1[r] ∨ x.1[r] = .free ∧ m[r] = .inUse ∧ winningClaim cs l = none ∧ n.current = r)
    (hw : ∀ c, winningClaim cs l = some c → n = c.shadow)
    (hlost : winningClaim cs l = none → n.content = defaultContent l ∧ n.generation = 0 ∧ LostPlace cs l m n
      ∧ (scannedCond cs n.current = .free → x.1[n.current] = .free)) :
    Scanned cs (done ++ [l]) (m, x.2.set l n) := by
  have ht : RowsTaken x.1 m := fun r => (hm r).imp id fun h => ⟨h.1, h.2.1⟩
  have hold : ∀ j ∈ done, (x.2.set l n)[j] = x.2[j] := fun j hj => by
    rw [get_set_fin, if_neg (by rintro rfl; exact hl hj)]
  have hnew : (x.2.set l n)[l] = n := by rw [get_set_fin, if_pos rfl]
  -- the place of the new row is held by no row before it
  have hfresh : ∀ j ∈ done, winningClaim cs j = none → winningClaim cs l = none →
      scannedCond cs n.current = .free → n.current ≠ x.2[j].current := fun j hj hjl hll hf e => by
    have hx := (h.lost j hj hjl).2.2.held e.symm hf
    rw [(hlost hll).2.2.2 hf] at hx
    cases hx
  refine ⟨fun j hj c hc => ?_, fun j hj hc => ?_, fun r => ?_, fun j hj k hk hjk hjl hkl => ?_⟩
  · obtain hj | hj := List.mem_append.1 hj
    · exact (hold j hj).trans (h.won j hj c hc)
    · obtain rfl := List.mem_singleton.1 hj
      exact hnew.trans (hw c hc)
  · obtain hj | hj := List.mem_append.1 hj
    · obtain ⟨h1, h2, h3⟩ := h.lost j hj hc
      exact (hold j hj).symm ▸ ⟨h1, h2, h3.mono ht⟩
    · obtain rfl := List.mem_singleton.1 hj
      obtain ⟨h1, h2, h3, -⟩ := hlost hc
      exact hnew.symm ▸ ⟨h1, h2, h3⟩
  · obtain e | ⟨hf, hi, j, hj, hjl, hc⟩ := h.cond r
    · obtain e' | ⟨hf, hi, hll, hc⟩ := hm r
      · exact .inl (e'.trans e)
      · exact .inr ⟨e.symm.trans hf, hi, l, by simp, hll, by rw [hnew]; exact hc⟩
    · exact .inr ⟨hf, ht.inUse hi, j, List.mem_append_left _ hj, hjl, by rw [hold j hj]; exact hc⟩
  · obtain hj' | hj' := List.mem_append.1 hj <;> obtain hk' | hk' := List.mem_append.1 hk
    · rw [hold j hj', hold k hk']
      exact h.apart j hj' k hk' hjk hjl hkl
    · obtain rfl := List.mem_singleton.1 hk'
      rw [hold j hj', hnew]
      exact fun hf e => hfresh j hj' hjl hkl (e ▸ hf) e.symm
    · obtain rfl := List.mem_singleton.1 hj'
      rw [hold k hk', hnew]
      exact fun hf => hfresh k hk' hkl hjl hf
    · obtain rfl := List.mem_singleton.1 hj'
      exact absurd (List.mem_singleton.1 hk').symm hjk

theorem any_claim_iff {cs : List Claim} {r : PRow} : (cs.any (·.phys == r)) = true ↔ ¬ Unclaimed cs r := by
  simp [Unclaimed]

/-! One row as the scan takes it: with a winning claim, lost with a free home, with a spare, and with neither. -/

theorem scannedRow_won {cs : List Claim} {l : LRow} {c : Claim} (h : winningClaim cs l = some c)
    (x : Vector RowCond 48 × Vector Shadow 35) : scannedRow cs l x = (x.1, x.2.set l c.shadow) := by
  simp only [scannedRow, h]
  rfl

/-- The shadow of a lost row (R178). -/
def lostShadow (l : LRow) (place : Option PRow) : Shadow :=
  { content := defaultContent l, current := place.getD (homeRow l), generation := 0, isVolatile := place.isNone }

theorem scannedRow_lost {cs : List Claim} {l : LRow} (h : winningClaim cs l = none)
    (x : Vector RowCond 48 × Vector Shadow 35) :
    scannedRow cs l x = ((lostRow cs l x.1).1, x.2.set l (lostShadow l (lostRow cs l x.1).2)) := by
  simp only [scannedRow, h]
  rfl

theorem lostRow_home {cs : List Claim} {l : LRow} (h : Unclaimed cs (homeRow l)) (m : Vector RowCond 48) :
    lostRow cs l m = (m, some (homeRow l)) := if_neg (fun e => any_claim_iff.1 e h)

theorem lostRow_claimed {cs : List Claim} {l : LRow} (h : ¬ Unclaimed cs (homeRow l)) (m : Vector RowCond 48) :
    lostRow cs l m = match freeSpare m with
      | some r => (m.set r .inUse, some r)
      | none => (m, none) := if_pos (any_claim_iff.2 h)

theorem Scanned.step {cs : List Claim} {done : List LRow} {x : Vector RowCond 48 × Vector Shadow 35} {l : LRow}
    (h : Scanned cs done x) (hl : l ∉ done) : Scanned cs (done ++ [l]) (scannedRow cs l x) := by
  cases hw : winningClaim cs l with
  | some c =>
    rw [scannedRow_won hw]
    refine h.snoc hl (fun r => .inl rfl) (fun d hd => ?_) (fun hn => ?_)
    · rw [Option.some.inj (hw.symm.trans hd)]
    · rw [hw] at hn; cases hn
  | none =>
    have hno : ∀ c, winningClaim cs l = some c → ∀ n : Shadow, n = c.shadow := fun c hc => by rw [hw] at hc; cases hc
    rw [scannedRow_lost hw]
    by_cases hu : Unclaimed cs (homeRow l)
    · rw [lostRow_home hu]
      refine h.snoc hl (fun r => .inl rfl) (fun c hc => hno c hc _) fun _ => ⟨rfl, rfl, .home hu rfl rfl, fun hf => ?_⟩
      exact absurd hf (home_not_free cs l)
    · rw [lostRow_claimed hu]
      cases hf : freeSpare x.1 with
      | none =>
        refine h.snoc hl (fun r => .inl rfl) (fun c hc => hno c hc _) fun _ =>
          ⟨rfl, rfl, .nowhere hu rfl rfl (freeSpare_none hf), fun hh => ?_⟩
        exact absurd hh (home_not_free cs l)
      | some q =>
        obtain ⟨hq, hlow⟩ := freeSpare_some hf
        have hset : ∀ r : PRow, (x.1.set q .inUse)[r] = if r = q then .inUse else x.1[r] := fun r => get_set_fin _ _ _ _
        have hfree : scannedCond cs q = .free := by
          obtain e | ⟨e, -⟩ := h.cond q
          · exact e.symm.trans hq
          · exact e
        refine h.snoc hl (fun r => ?_) (fun c hc => hno c hc _) fun _ =>
          ⟨rfl, rfl, .spare hu rfl hfree ((hset q).trans (if_pos rfl)) fun r hr => ?_, fun _ => hq⟩
        · dsimp only
          rw [hset]
          split
          · rename_i e
            subst e
            exact .inr ⟨hq, rfl, hw, rfl⟩
          · exact .inl rfl
        · have hr' : r < q := hr
          dsimp only
          rw [hset, if_neg (Fin.ne_of_lt hr')]
          exact hlow r hr'

theorem scanned_foldl {cs : List Claim} : ∀ (ls done : List LRow) (x : Vector RowCond 48 × Vector Shadow 35),
    Scanned cs done x → (done ++ ls).Nodup → Scanned cs (done ++ ls) (ls.foldl (fun x l => scannedRow cs l x) x)
  | [], done, x, h, _ => by simpa using h
  | l :: ls, done, x, h, hn => by
    have hl : l ∉ done := fun hd => List.disjoint_of_nodup_append hn hd (List.mem_cons_self)
    have := scanned_foldl ls (done ++ [l]) _ (h.step hl) (by simpa using hn)
    simpa using this

/-- Map and shadows after the rows were scanned, before the configuration image is limited. -/
def scannedRows (t : Store) : Vector RowCond 48 × Vector Shadow 35 :=
  (List.finRange 35).foldl (fun x l => scannedRow (claimsOf t.array) l x)
    (tableOf 48 (scannedCond (claimsOf t.array)), t.shadows)

theorem scannedRows_scanned (t : Store) : Scanned (claimsOf t.array) (List.finRange 35) (scannedRows t) := by
  have h := scanned_foldl (List.finRange 35) [] _ (scanned_nil (claimsOf t.array) t.shadows) (List.nodup_finRange 35)
  exact h

/-! ### The configuration image (R169, R179) -/

/-- A list of bytes that fills its vector comes back as it was. -/
theorem padBytes_of_length {n : Nat} {l : List Byte} (h : l.length = n) : (padBytes n l).toList = l := by
  subst h
  simp [padBytes, Vector.toList]

theorem part_toList {img : Image} {i : Nat} (h : i < 4) : (img.part i).toList = (img.toList.drop (13 * i)).take 13 := by
  have hl : img.toList.length = 52 := Vector.length_toList
  unfold Image.part padBytes
  rw [Vector.toList_mk, List.take_append_of_le_length (by rw [List.length_drop]; omega)]

/-- The four parts of an image make it up (R169). -/
theorem image_of_parts (img : Image) : padBytes 52 ((img.part 0).toList ++ (img.part 1).toList ++ (img.part 2).toList
    ++ (img.part 3).toList) = img := by
  have hl : img.toList.length = 52 := Vector.length_toList
  have next (a : Nat) : (img.toList.drop a).take 13 ++ img.toList.drop (a + 13) = img.toList.drop a := by
    rw [← List.drop_drop, List.take_append_drop]
  have e : (img.part 0).toList ++ (img.part 1).toList ++ (img.part 2).toList ++ (img.part 3).toList = img.toList := by
    rw [part_toList (by decide), part_toList (by decide), part_toList (by decide), part_toList (by decide),
      List.take_of_length_le (l := img.toList.drop (13 * 3)) (by simp [hl]), List.append_assoc, List.append_assoc]
    exact (congrArg _ ((congrArg _ (next 26)).trans (next 13))).trans (next 0)
  rw [e]
  exact Vector.toList_inj.1 (padBytes_of_length hl)

theorem factoryImage_limited : factoryImage.limited = factoryImage := by decide

/-- The configuration rows in their logical rows. -/
def cfgRow (i : Fin 4) : LRow := Fin.castLE (by decide) i

/-- The image that the scan finds: the stored one, or the factory image when one of its rows is lost (R179). -/
def loadedImage (lost : List LRow) (shadows : Vector Shadow 35) : Image :=
  if lost.any (·.val ≤ 3) then factoryImage
  else padBytes 52 ((List.finRange 4).flatMap fun i => shadows[cfgRow i].content.toList)

theorem loadConfig_eq (lost : List LRow) (sh : Vector Shadow 35) : loadConfig lost sh =
    (List.finRange 4).foldl (fun t i =>
      t.set (cfgRow i) { t[cfgRow i] with content := (loadedImage lost sh).limited.part i.val }) sh := rfl

theorem finRange_four : List.finRange 4 = [0, 1, 2, 3] := rfl

/-- A row beyond the configuration keeps its shadow; a configuration row takes its part of the limited image (R179). -/
theorem loadConfig_get (lost : List LRow) (sh : Vector Shadow 35) (l : LRow) : (loadConfig lost sh)[l] = { sh[l] with
    content := if l.val < 4 then (loadedImage lost sh).limited.part l.val else sh[l].content } := by
  rw [loadConfig_eq, finRange_four]
  simp only [List.foldl_cons, List.foldl_nil, get_set_fin]
  by_cases h : l.val < 4
  · obtain ⟨n, hn⟩ := l
    obtain h' | h' | h' | h' : n = 0 ∨ n = 1 ∨ n = 2 ∨ n = 3 := by simp only at h; omega
    all_goals subst h'; rfl
  · have hne (i : Fin 4) : l ≠ cfgRow i := fun e => h (e ▸ i.isLt)
    simp only [if_neg (hne _), if_neg h]

/-- The live configuration of a store (R169). -/
theorem cfg_of_parts {img : Image} (h : ∀ i : Fin 4, s.row (cfgRow i) = img.part i.val) : s.cfg = img := by
  have h0 : s.row 0 = img.part 0 := h 0
  have h1 : s.row 1 = img.part 1 := h 1
  have h2 : s.row 2 = img.part 2 := h 2
  have h3 : s.row 3 = img.part 3 := h 3
  rw [State.cfg, h0, h1, h2, h3, image_of_parts]

/-! ### What the scan leaves (R177 to R179) -/

/-- The state after the scan, before RECORD_LOST. -/
def scannedState (s : State) : State := (s.withStore (scanStore s.store)).withSys { s.sys with scanDue := none }

theorem endScan_eq (s : State) : endScan s =
    if (scanStore s.store).lost.isEmpty then scannedState s else offer .recordLost (scannedState s) := rfl

theorem endScan_store (s : State) : (endScan s).store = scanStore s.store := by
  rw [endScan_eq]
  split
  · rfl
  · exact offer_store _ _

theorem endScan_sys (h : s.sys.mode = .starting) : (endScan s).sys = { s.sys with scanDue := none } := by
  rw [endScan_eq]
  split
  · rfl
  · exact ((Records.offer .recordLost (scannedState s)).awake (by simp [scannedState, h])).1

theorem endScan_kept (h : (scanStore s.store).lost = []) : (endScan s).events = s.events := by
  rw [endScan_eq, h]
  rfl

/-- A lost row captures RECORD_LOST (R178). -/
theorem endScan_captured (hm : s.sys.mode = .starting) (h : (scanStore s.store).lost ≠ []) (p : Port) :
    ((endScan s).events.get p).captured =
      (s.events.get p).captured ||| (Ev.recordLost.bit &&& (s.events.get p).mask) := by
  have hn : (scannedState s).sys.mode ≠ .park := by simp [scannedState, hm]
  rw [endScan_eq, if_neg (by simpa using h), offer, wake_of_ne_park hn, captureAll_get]
  rfl

theorem mem_lost {t : Store} {l : LRow} : l ∈ (scanStore t).lost ↔ winningClaim (claimsOf t.array) l = none := by
  simp [scanStore]

theorem scanStore_map (t : Store) : (scanStore t).map = (scannedRows t).1 := rfl

theorem scanStore_shadow (t : Store) (l : LRow) : (scanStore t).shadows[l] = { (scannedRows t).2[l] with
    content := if l.val < 4 then (loadedImage (scanStore t).lost (scannedRows t).2).limited.part l.val
      else (scannedRows t).2[l].content } := loadConfig_get _ _ l

/-- The condition of a row that was not FREE at first stands (R178). -/
theorem scanStore_cond {t : Store} {r : PRow} {c : RowCond} (h : scannedCond (claimsOf t.array) r = c) (hc : c ≠ .free) :
    (scanStore t).map[r] = c := by
  obtain e | ⟨e, -⟩ := (scannedRows_scanned t).cond r
  · exact e.trans h
  · exact absurd (h.symm.trans e) hc

theorem scanned_won {t : Store} {l : LRow} {c : Claim} (h : winningClaim (claimsOf t.array) l = some c) :
    (scannedRows t).2[l] = c.shadow := (scannedRows_scanned t).won l (List.mem_finRange l) c h

theorem scanned_lost {t : Store} {l : LRow} (h : winningClaim (claimsOf t.array) l = none) :
    (scannedRows t).2[l].content = defaultContent l ∧ (scannedRows t).2[l].generation = 0
      ∧ LostPlace (claimsOf t.array) l (scannedRows t).1 (scannedRows t).2[l] :=
  (scannedRows_scanned t).lost l (List.mem_finRange l) h

/-- What the scan leaves of a row with a winning claim (R177). -/
theorem scanStore_won {t : Store} {l : LRow} {c : Claim} (h : winningClaim (claimsOf t.array) l = some c) :
    (scanStore t).shadows[l].current = c.phys ∧ (scanStore t).shadows[l].generation = c.generation
      ∧ (scanStore t).shadows[l].isVolatile = false ∧ (scanStore t).map[c.phys] = .inUse
      ∧ (4 ≤ l.val → (scanStore t).shadows[l].content = c.payload)
      ∧ ((∀ x ∈ claimsOf t.array, x.phys ≠ homeRow l) → (scanStore t).map[homeRow l] = .retired) := by
  rw [scanStore_shadow, scanned_won h]
  refine ⟨rfl, rfl, rfl, scanStore_cond (scannedCond_winner h) (by decide), fun hl => if_neg (Nat.not_lt.2 hl), fun hu => ?_⟩
  exact scanStore_cond (by rw [scannedCond_home hu, h]; rfl) (by decide)

theorem defaultContent_beyond {l : LRow} (h : 4 ≤ l.val) : defaultContent l =
    padBytes 13 (if 5 ≤ l.val ∧ l.val ≤ 10 then [0, 0, 0, 0, 0, 0, 0, 0, 0xFF] else []) := by
  rw [defaultContent, if_neg (by omega)]
  split <;> rfl

/-- What the scan leaves of a lost row (R178). -/
theorem scanStore_lost {t : Store} {l : LRow} (h : winningClaim (claimsOf t.array) l = none) :
    (scanStore t).shadows[l].generation = 0
      ∧ (4 ≤ l.val → (scanStore t).shadows[l].content =
          padBytes 13 (if 5 ≤ l.val ∧ l.val ≤ 10 then [0, 0, 0, 0, 0, 0, 0, 0, 0xFF] else []))
      ∧ ((∀ x ∈ claimsOf t.array, x.phys ≠ homeRow l) → (scanStore t).shadows[l].current = homeRow l
          ∧ (scanStore t).shadows[l].isVolatile = false ∧ (scanStore t).map[homeRow l] = .inUse)
      ∧ ((∃ x ∈ claimsOf t.array, x.phys = homeRow l) → (scanStore t).shadows[l].isVolatile = false →
          ∃ q : PRow, (scanStore t).shadows[l].current = q ∧ 35 ≤ q.val ∧ (∀ x ∈ claimsOf t.array, x.phys ≠ q)
            ∧ (scanStore t).map[q] = .inUse ∧ ∀ r : PRow, r < q → (scanStore t).map[r] ≠ .free)
      ∧ ((scanStore t).shadows[l].isVolatile = true → ∀ r : PRow, (scanStore t).map[r] ≠ .free) := by
  obtain ⟨hc, hg, hp⟩ := scanned_lost h
  rw [scanStore_shadow]
  refine ⟨hg, fun hl => ?_, fun hu => ?_, fun hx hv => ?_, fun hv => ?_⟩
  · exact (if_neg (Nat.not_lt.2 hl)).trans (hc.trans (defaultContent_beyond hl))
  · cases hp with
    | home _ hcur hv => exact ⟨hcur, hv, scanStore_cond (by rw [scannedCond_home hu, h]; rfl) (by decide)⟩
    | spare hn => exact absurd hu hn
    | nowhere hn => exact absurd hu hn
  · cases hp with
    | home hu => obtain ⟨x, hx, e⟩ := hx; exact absurd e (hu x hx)
    | spare _ _ hf hi hlow =>
      obtain ⟨h35, hu⟩ := scannedCond_free.1 hf
      exact ⟨_, rfl, h35, hu, hi, hlow⟩
    | nowhere _ _ hg => rw [show (scannedRows t).2[l].isVolatile = false from hv] at hg; cases hg
  · cases hp with
    | home _ _ hk => rw [show (scannedRows t).2[l].isVolatile = true from hv] at hk; cases hk
    | spare _ hk => rw [show (scannedRows t).2[l].isVolatile = true from hv] at hk; cases hk
    | nowhere _ _ _ hf => exact hf

/-- No two lost rows hold one place (R178). -/
theorem scanStore_apart {t : Store} {l m : LRow} (hlm : l ≠ m) (hl : winningClaim (claimsOf t.array) l = none)
    (hm : winningClaim (claimsOf t.array) m = none) (hlv : (scanStore t).shadows[l].isVolatile = false)
    (hmv : (scanStore t).shadows[m].isVolatile = false) :
    (scanStore t).shadows[l].current ≠ (scanStore t).shadows[m].current := by
  rw [scanStore_shadow] at hlv hmv ⊢
  rw [scanStore_shadow]
  have ap := (scannedRows_scanned t).apart
  obtain el | fl := (scanned_lost hl).2.2.kept_current hlv
  · obtain em | fm := (scanned_lost hm).2.2.kept_current hmv
    · exact fun e => hlm (homeRow_inj (el.symm.trans (e.trans em)))
    · exact (ap m (List.mem_finRange m) l (List.mem_finRange l) hlm.symm hm hl fm).symm
  · exact ap l (List.mem_finRange l) m (List.mem_finRange m) hlm hl hm fl

/-- A spare that claims nothing and that no lost row takes is FREE (R178). -/
theorem scanStore_free {t : Store} {r : PRow} (h : 35 ≤ r.val) (hu : ∀ x ∈ claimsOf t.array, x.phys ≠ r)
    (hn : ∀ l : LRow, winningClaim (claimsOf t.array) l = none → (scanStore t).shadows[l].current ≠ r) :
    (scanStore t).map[r] = .free := by
  obtain e | ⟨-, -, l, -, hl, hc⟩ := (scannedRows_scanned t).cond r
  · exact e.trans (scannedCond_free.2 ⟨h, hu⟩)
  · refine absurd ?_ (hn l hl)
    rw [scanStore_shadow]
    exact hc

/-- The configuration after the scan is the image found, limited (R179). -/
theorem scanned_cfg {t : Store} (h : s.store = scanStore t) :
    s.cfg = (loadedImage (scanStore t).lost (scannedRows t).2).limited := by
  refine cfg_of_parts fun i => ?_
  rw [State.row, h, scanStore_shadow]
  exact if_pos i.isLt

theorem loadedImage_factory {lost : List LRow} {l : LRow} (hl : l.val ≤ 3) (h : l ∈ lost) (sh : Vector Shadow 35) :
    loadedImage lost sh = factoryImage := by
  rw [loadedImage, if_pos]
  exact List.any_eq_true.2 ⟨l, h, by simpa using hl⟩

theorem loadedImage_stored {t : Store} {c0 c1 c2 c3 : Claim} (h0 : winningClaim (claimsOf t.array) 0 = some c0)
    (h1 : winningClaim (claimsOf t.array) 1 = some c1) (h2 : winningClaim (claimsOf t.array) 2 = some c2)
    (h3 : winningClaim (claimsOf t.array) 3 = some c3) : loadedImage (scanStore t).lost (scannedRows t).2 =
      padBytes 52 (c0.payload.toList ++ c1.payload.toList ++ c2.payload.toList ++ c3.payload.toList) := by
  have hn : ¬ ((scanStore t).lost.any (·.val ≤ 3)) = true := by
    rw [List.any_eq_true]
    rintro ⟨⟨n, hn⟩, hl, h⟩
    rw [mem_lost] at hl
    obtain rfl | rfl | rfl | rfl : n = 0 ∨ n = 1 ∨ n = 2 ∨ n = 3 := by simp at h; omega
    · cases h0.symm.trans hl
    · cases h1.symm.trans hl
    · cases h2.symm.trans hl
    · cases h3.symm.trans hl
  have e0 : (scannedRows t).2[cfgRow 0] = c0.shadow := scanned_won h0
  have e1 : (scannedRows t).2[cfgRow 1] = c1.shadow := scanned_won h1
  have e2 : (scannedRows t).2[cfgRow 2] = c2.shadow := scanned_won h2
  have e3 : (scannedRows t).2[cfgRow 3] = c3.shadow := scanned_won h3
  rw [loadedImage, if_neg hn, finRange_four]
  simp only [List.flatMap_cons, List.flatMap_nil, e0, e1, e2, e3, List.append_nil, ← List.append_assoc]
  rfl

end Sys2Proof.Machine
end

section
/-! The derivation of the records at the end of STARTING (R25, R55, R62, R66, R70, R115, R147, R199). -/

namespace Sys2Proof.Machine

variable {s : State}

/-! ### Writes of the STATE row outside PARK -/

/-- Outside PARK a queued write changes the store alone (R170). -/
theorem storeWrite_alone (l : LRow) (c : Content) (h : s.sys.mode ≠ .park) :
    storeWrite l c s = s.withStore (storeWrite l c s).store := by
  unfold storeWrite
  rw [wake_of_ne_park h]
  split
  · rfl
  · dsimp only
    split <;> rfl

theorem storeWrite_content (l m : LRow) (c : Content) (s : State) :
    (storeWrite l c s).store.shadows[m].content = if m = l then c else s.store.shadows[m].content := by
  rw [storeWrite_store]
  dsimp only
  rw [get_set_fin]
  split <;> rfl

/-- `y` is `x` with at most the store queue and byte `i` of the STATE row moved. -/
structure StateByteMoved (i : Nat) (x y : Store) : Prop where
  lost : y.lost = x.lost
  isVolatile : ∀ l : LRow, y.shadows[l].isVolatile = x.shadows[l].isVolatile
  rows : ∀ l : LRow, l ≠ stateRow → y.shadows[l].content = x.shadows[l].content
  bytes : ∀ (j : Nat) (hj : j < 13), j ≠ i → y.shadows[stateRow].content[j] = x.shadows[stateRow].content[j]

theorem StateByteMoved.refl (i : Nat) (x : Store) : StateByteMoved i x x :=
  ⟨rfl, fun _ => rfl, fun _ _ => rfl, fun _ _ _ => rfl⟩

theorem StateByteMoved.trans {i : Nat} {x y z : Store} (a : StateByteMoved i x y) (b : StateByteMoved i y z) :
    StateByteMoved i x z where
  lost := b.lost.trans a.lost
  isVolatile l := (b.isVolatile l).trans (a.isVolatile l)
  rows l h := (b.rows l h).trans (a.rows l h)
  bytes j hj h := (b.bytes j hj h).trans (a.bytes j hj h)

theorem writeStateByte_moved (i : Fin 13) (b : Byte) (s : State) :
    StateByteMoved i.val s.store (writeStateByte i b s).store where
  lost := by rw [writeStateByte, storeWrite_store]
  isVolatile l := storeWrite_isVolatile _ _ _ _
  rows l h := by rw [writeStateByte, storeWrite_content, if_neg h]
  bytes j hj h := by
    simp only [writeStateByte, storeWrite_content, if_pos]
    exact Vector.getElem_set_ne _ _ (Ne.symm h)

theorem writeStateByte_byte (i : Fin 13) (b : Byte) (s : State) :
    ((writeStateByte i b s).row stateRow)[i.val] = b := by
  simp only [State.row, writeStateByte, storeWrite_content, if_pos]
  exact Vector.getElem_set_self _

/-! ### Latches (R25) -/

/-- The deadlock bit of a latch, clear for the tailgate (R25). -/
def State.deadStored (s : State) (l : Latch) : Bool := (deadBit l).any fun n => s.deadlockBits.getLsbD n

/-- The latch record that the first readings and the deadlock bit give (R25). -/
def derivedLatch (l : Latch) (s : State) : LatchRec :=
  { LatchRec.reset with
    position := s.pins.latchpos.get l, ajar := s.pins.ajar.get l
    state := match s.pins.latchpos.get l with
      | .unlocked => .unlocked
      | .locked => if s.deadStored l then .deadlocked else .locked }

/-- A stored deadlock bit of an unlocked latch is cleared (R25). -/
def State.deadStale (s : State) (l : Latch) : Bool := s.deadStored l && s.pins.latchpos.get l == .unlocked

theorem deriveLatch_eq (l : Latch) (s : State) : deriveLatch l s =
    match deadBit l with
    | some n => if s.deadStale l then
          writeStateByte 3 (setBit s.deadlockBits n false) (s.modLatch l fun _ => derivedLatch l s)
        else s.modLatch l fun _ => derivedLatch l s
    | none => s.modLatch l fun _ => derivedLatch l s := rfl

/-- A latch whose bit stands as it is (R25). -/
theorem deriveLatch_kept {l : Latch} (h : s.deadStale l = false) :
    deriveLatch l s = s.modLatch l fun _ => derivedLatch l s := by
  rw [deriveLatch_eq]
  split
  · rw [h]
    rfl
  · rfl

/-- A latch whose bit is cleared (R25). -/
theorem deriveLatch_cleared {l : Latch} (h : s.deadStale l = true) : ∃ n, deadBit l = some n
    ∧ deriveLatch l s = writeStateByte 3 (setBit s.deadlockBits n false) (s.modLatch l fun _ => derivedLatch l s) := by
  obtain ⟨hd, -⟩ := Bool.and_eq_true_iff.1 h
  cases hb : deadBit l with
  | none => rw [State.deadStored, hb] at hd; cases hd
  | some n =>
    refine ⟨n, rfl, ?_⟩
    rw [deriveLatch_eq, hb, h]
    rfl

theorem deriveLatch_alone (l : Latch) (h : s.sys.mode ≠ .park) :
    deriveLatch l s = (s.modLatch l fun _ => derivedLatch l s).withStore (deriveLatch l s).store := by
  cases hs : s.deadStale l with
  | false => rw [deriveLatch_kept hs]; rfl
  | true =>
    obtain ⟨n, -, e⟩ := deriveLatch_cleared hs
    rw [e]
    exact storeWrite_alone _ _ h

theorem deriveLatch_moved (l : Latch) (s : State) : StateByteMoved 3 s.store (deriveLatch l s).store := by
  cases hs : s.deadStale l with
  | false => rw [deriveLatch_kept hs]; exact .refl _ _
  | true =>
    obtain ⟨n, -, e⟩ := deriveLatch_cleared hs
    rw [e]
    exact writeStateByte_moved 3 _ (s.modLatch l fun _ => derivedLatch l s)

theorem deadlockBits_of_byte {b : Byte} (h : (s.row stateRow)[3] = b) (hb : b.toNat ≤ 15) : s.deadlockBits = b := by
  rw [State.deadlockBits, h]
  exact if_pos hb

theorem deadlockBits_congr {t : State} (h : (t.row stateRow)[3] = (s.row stateRow)[3]) :
    t.deadlockBits = s.deadlockBits := by
  rw [State.deadlockBits, h]
  rfl

/-- The deadlock bits after the derivation of one latch (R25). -/
theorem deriveLatch_bit (l : Latch) {n : Nat} (hn : n < 8) (s : State) : (deriveLatch l s).deadlockBits.getLsbD n =
    if deadBit l = some n ∧ s.pins.latchpos.get l = .unlocked then false else s.deadlockBits.getLsbD n := by
  cases hs : s.deadStale l with
  | false =>
    have e : (deriveLatch l s).deadlockBits = s.deadlockBits := by rw [deriveLatch_kept hs]; rfl
    rw [e]
    split
    · rename_i hc
      simpa [State.deadStale, State.deadStored, hc.1, hc.2] using hs
    · rfl
  | true =>
    obtain ⟨m, hm, e⟩ := deriveLatch_cleared hs
    have hp : s.pins.latchpos.get l = .unlocked := by simpa using (Bool.and_eq_true_iff.1 hs).2
    have hb : (setBit s.deadlockBits m false).toNat ≤ 15 :=
      Nat.le_of_lt_succ (setBit_lt false (deadlockBits_lt s) (deadBit_lt hm))
    have hd : (deriveLatch l s).deadlockBits = setBit s.deadlockBits m false := by
      rw [e]
      exact deadlockBits_of_byte (writeStateByte_byte 3 _ _) hb
    rw [hd, getLsbD_setBit _ _ _ hn, hm, hp]
    simp [eq_comm]

/-- The latches of a list derived in order. -/
structure LatchesDerived (ls : List Latch) (s t : State) : Prop where
  alone : t = (s.withLatches t.latches).withStore t.store
  moved : StateByteMoved 3 s.store t.store
  records : ∀ l, t.latches.get l = if l ∈ ls then derivedLatch l s else s.latches.get l
  bits : ∀ l n, deadBit l = some n → t.deadlockBits.getLsbD n =
    if l ∈ ls then s.deadlockBits.getLsbD n && s.pins.latchpos.get l == .locked else s.deadlockBits.getLsbD n

theorem deadBit_inj {l m : Latch} {n : Nat} (h : deadBit l = some n) (k : deadBit m = some n) : l = m := by
  revert k
  cases l <;> cases h <;> cases m <;> simp [deadBit]

theorem derivedLatch_congr {t : State} {l : Latch} (hp : t.pins = s.pins) (hd : t.deadStored l = s.deadStored l) :
    derivedLatch l t = derivedLatch l s := by
  rw [derivedLatch, hp, hd]
  rfl

/-- The derivation of one latch leaves the deadlock bits of the others. -/
theorem deriveLatch_deadStored {a l : Latch} (h : l ≠ a) (s : State) :
    (deriveLatch a s).deadStored l = s.deadStored l := by
  unfold State.deadStored
  cases hl : deadBit l with
  | none => rfl
  | some n =>
    have hne : ¬ (deadBit a = some n ∧ s.pins.latchpos.get a = .unlocked) := fun hc => h (deadBit_inj hl hc.1)
    exact (deriveLatch_bit a ((deadBit_lt hl).trans (by decide)) s).trans (if_neg hne)

theorem latchesDerived : ∀ (ls : List Latch) (s : State), ls.Nodup → s.sys.mode ≠ .park →
    LatchesDerived ls s (ls.foldl (fun s l => deriveLatch l s) s)
  | [], s, _, _ => ⟨rfl, .refl _ _, fun l => by simp, fun l n h => by simp⟩
  | a :: ls, s, hn, hm => by
    obtain ⟨ha, hn⟩ := List.nodup_cons.1 hn
    have e := deriveLatch_alone a hm
    have hs : (deriveLatch a s).sys = s.sys := (congrArg State.sys e).trans rfl
    have hp : (deriveLatch a s).pins = s.pins := (congrArg State.pins e).trans rfl
    have hl : (deriveLatch a s).latches = s.latches.set a (derivedLatch a s) := (congrArg State.latches e).trans rfl
    obtain ⟨h1, h2, h3, h4⟩ := latchesDerived ls (deriveLatch a s) hn (by rw [hs]; exact hm)
    rw [List.foldl_cons]
    generalize ls.foldl (fun s l => deriveLatch l s) (deriveLatch a s) = t at h1 h2 h3 h4
    refine ⟨?_, (deriveLatch_moved a s).trans h2, fun l => ?_, fun l n hb => ?_⟩
    · rw [e] at h1
      exact h1
    · by_cases hla : l = a
      · subst hla
        rw [h3, if_neg ha, if_pos List.mem_cons_self, hl, Doors.get_set_self]
      · rw [h3, hl, Doors.get_set_ne _ _ hla, derivedLatch_congr hp (deriveLatch_deadStored hla s)]
        simp only [List.mem_cons, hla, false_or]
    · rw [h4 l n hb, hp, deriveLatch_bit a ((deadBit_lt hb).trans (by decide))]
      by_cases hla : l = a
      · subst hla
        rw [if_neg ha, if_pos List.mem_cons_self, hb]
        cases s.pins.latchpos.get l <;> simp
      · have hne : ¬ (deadBit a = some n ∧ s.pins.latchpos.get a = .unlocked) := fun hc => hla (deadBit_inj hb hc.1)
        rw [if_neg hne]
        simp only [List.mem_cons, hla, false_or]

/-! ### Child locks (R55, R62, R63) -/

/-- The child lock record that the first reading gives (R55). -/
def derivedChild (c : Side) (s : State) : ChildRec :=
  { ChildRec.reset with state := s.pins.chpos.get c, position := s.pins.chpos.get c }

/-- The copy that a child lock is to have (R55). -/
def State.copyRead (s : State) (c : Side) : Bool := s.pins.chpos.get c == .engaged

theorem deriveChild_eq (c : Side) (s : State) : deriveChild c s =
    if (s.childCopies.getLsbD (childBit c) == s.copyRead c) = true then s.modChild c fun _ => derivedChild c s
    else writeStateByte 4 (setBit s.childCopies (childBit c) (s.copyRead c)) (s.modChild c fun _ => derivedChild c s) :=
  rfl

theorem deriveChild_alone (c : Side) (h : s.sys.mode ≠ .park) :
    deriveChild c s = (s.modChild c fun _ => derivedChild c s).withStore (deriveChild c s).store := by
  rw [deriveChild_eq]
  split
  · rfl
  · exact storeWrite_alone _ _ h

theorem deriveChild_moved (c : Side) (s : State) : StateByteMoved 4 s.store (deriveChild c s).store := by
  rw [deriveChild_eq]
  split
  · exact .refl _ _
  · exact writeStateByte_moved 4 _ (s.modChild c fun _ => derivedChild c s)

theorem childCopies_of_byte {b : Byte} (h : (s.row stateRow)[4] = b) (hb : b.toNat ≤ 3) : s.childCopies = b := by
  rw [State.childCopies, h]
  exact if_pos hb

theorem childCopies_congr {t : State} (h : (t.row stateRow)[4] = (s.row stateRow)[4]) :
    t.childCopies = s.childCopies := by
  rw [State.childCopies, h]
  rfl

/-- The child copies after the derivation of one child lock (R55). -/
theorem deriveChild_bit (c d : Side) (s : State) : (deriveChild c s).childCopies.getLsbD (childBit d) =
    if d = c then s.copyRead c else s.childCopies.getLsbD (childBit d) := by
  rw [deriveChild_eq]
  split
  · rename_i h
    have e : (s.modChild c fun _ => derivedChild c s).childCopies = s.childCopies := rfl
    rw [e]
    split
    · rename_i hd
      rw [hd]
      exact eq_of_beq h
    · rfl
  · have hb : (setBit s.childCopies (childBit c) (s.copyRead c)).toNat ≤ 3 :=
      Nat.le_of_lt_succ (setBit_lt _ (childCopies_lt s) (childBit_lt c))
    rw [childCopies_of_byte (writeStateByte_byte 4 _ _) hb, getLsbD_setBit _ _ _ (by have := childBit_lt d; omega)]
    simp only [childBit_inj]

/-- Both child locks derived in order. -/
structure ChildrenDerived (s t : State) : Prop where
  alone : t = (s.withChild t.child).withStore t.store
  moved : StateByteMoved 4 s.store t.store
  records : ∀ c, t.child.recs.get c = derivedChild c s
  copies : ∀ c, t.childCopies.getLsbD (childBit c) = s.copyRead c

theorem childrenDerived (h : s.sys.mode ≠ .park) :
    ChildrenDerived s (Side.list.foldl (fun s c => deriveChild c s) s) := by
  show ChildrenDerived s (deriveChild .right (deriveChild .left s))
  have e1 := deriveChild_alone .left h
  have hs : (deriveChild .left s).sys = s.sys := (congrArg State.sys e1).trans rfl
  have hp : (deriveChild .left s).pins = s.pins := (congrArg State.pins e1).trans rfl
  have hc : (deriveChild .left s).child = (s.modChild .left fun _ => derivedChild .left s).child := (congrArg State.child e1).trans rfl
  have e2 := deriveChild_alone (s := deriveChild .left s) .right (by rw [hs]; exact h)
  have hc2 : (deriveChild .right (deriveChild .left s)).child =
      ((deriveChild .left s).modChild .right fun _ => derivedChild .right (deriveChild .left s)).child :=
    (congrArg State.child e2).trans rfl
  have hd : derivedChild .right (deriveChild .left s) = derivedChild .right s := by rw [derivedChild, hp]; rfl
  have hr : (deriveChild .left s).copyRead .right = s.copyRead .right := by rw [State.copyRead, hp]; rfl
  refine ⟨?_, (deriveChild_moved _ _).trans (deriveChild_moved _ _), fun c => ?_, fun c => ?_⟩
  · have ha : deriveChild .right (deriveChild .left s) = ((deriveChild .left s).withChild
        (deriveChild .right (deriveChild .left s)).child).withStore (deriveChild .right (deriveChild .left s)).store := by
      rw [hc2]
      exact e2
    generalize deriveChild .right (deriveChild .left s) = t at ha ⊢
    rw [e1] at ha
    exact ha
  · rw [hc2, hd]
    cases c
    · show (deriveChild .left s).child.recs.left = _
      rw [hc]
      rfl
    · rfl
  · rw [deriveChild_bit, deriveChild_bit, hr]
    cases c <;> rfl

/-! ### Windows and channels (R66, R70) -/

/-- The window record that the six rows give (R66). -/
def derivedWindow (w : Win) (s : State) : WindowRec :=
  let pmax := if s.store.lost.contains (w.row 0) then none else validPmax (field16 (s.row (w.row 0)).toList 0 0)
  { WindowRec.reset with
    pmax := pmax
    norm := if !s.profileLost w && pmax.isSome && (s.row (w.row 0)).toList.getD 2 0 == 1 then .positionLost
            else .unlearned }

/-- The profile that the six rows give (R66, R113). -/
def derivedProfile (w : Win) (s : State) : Vector Nat 32 :=
  if s.profileLost w then Vector.replicate 32 0 else tableOf 32 fun z => (s.storedRefs w).getD z.val 0

/-- The channel record that the first reading gives (R70). -/
def derivedChan (c : Chan) (s : State) : ChanRec :=
  { position := decodeLadder (s.pins.ladders.get c), waiting := decodeLadder (s.pins.ladders.get c) != .neutral }

theorem deriveWindow_eq (w : Win) (s : State) : deriveWindow w s =
    (s.modWindow w fun _ => derivedWindow w s).setProfile w (derivedProfile w s) := rfl

/-- The windows of a list derived in order. -/
structure WindowsDerived (ws : List Win) (s t : State) : Prop where
  alone : t = (s.withWindows t.windows).withProfiles t.profiles
  records : ∀ w, t.windows.get w = if w ∈ ws then derivedWindow w s else s.windows.get w
  profiles : ∀ w, t.profiles.get w = if w ∈ ws then derivedProfile w s else s.profiles.get w

theorem windowsDerived : ∀ (ws : List Win) (s : State), ws.Nodup →
    WindowsDerived ws s (ws.foldl (fun s w => deriveWindow w s) s)
  | [], s, _ => ⟨rfl, fun w => by simp, fun w => by simp⟩
  | a :: ws, s, hn => by
    obtain ⟨ha, hn⟩ := List.nodup_cons.1 hn
    obtain ⟨h1, h2, h3⟩ := windowsDerived ws (deriveWindow a s) hn
    rw [List.foldl_cons]
    generalize ws.foldl (fun s w => deriveWindow w s) (deriveWindow a s) = t at h1 h2 h3
    refine ⟨h1, fun w => (h2 w).trans ?_, fun w => (h3 w).trans ?_⟩
    · by_cases hw : w = a
      · subst hw
        rw [if_neg ha, if_pos List.mem_cons_self, deriveWindow_eq]
        exact Wins.get_set_self _ _ _
      · simp only [List.mem_cons, hw, false_or]
        exact ite_congr rfl (fun _ => rfl) fun _ => Wins.get_set_ne _ _ hw
    · by_cases hw : w = a
      · subst hw
        rw [if_neg ha, if_pos List.mem_cons_self, deriveWindow_eq]
        exact Wins.get_set_self _ _ _
      · simp only [List.mem_cons, hw, false_or]
        exact ite_congr rfl (fun _ => rfl) fun _ => Wins.get_set_ne _ _ hw

/-- The channels of a list derived in order. -/
structure ChansDerived (cs : List Chan) (s t : State) : Prop where
  alone : t = s.withChans t.chans
  records : ∀ c, t.chans.get c = if c ∈ cs then derivedChan c s else s.chans.get c

theorem chansDerived : ∀ (cs : List Chan) (s : State), cs.Nodup →
    ChansDerived cs s (cs.foldl (fun s c => deriveChan c s) s)
  | [], s, _ => ⟨rfl, fun c => by simp⟩
  | a :: cs, s, hn => by
    obtain ⟨ha, hn⟩ := List.nodup_cons.1 hn
    obtain ⟨h1, h2⟩ := chansDerived cs (deriveChan a s) hn
    rw [List.foldl_cons]
    generalize cs.foldl (fun s c => deriveChan c s) (deriveChan a s) = t at h1 h2
    refine ⟨h1, fun c => (h2 c).trans ?_⟩
    by_cases hc : c = a
    · subst hc
      rw [if_neg ha, if_pos List.mem_cons_self]
      exact Chans.get_set_self _ _ _
    · simp only [List.mem_cons, hc, false_or]
      exact ite_congr rfl (fun _ => rfl) fun _ => Chans.get_set_ne _ _ hc

theorem Win.row_val (w : Win) {r : Nat} (h : r < 6) : (w.row r).val = 11 + 6 * w.index + r := by
  have : w.index ≤ 3 := by cases w <;> decide
  show (11 + 6 * w.index + r) % 35 = _
  omega

theorem storedRefs_congr {t : State} {w : Win} (h : ∀ r, r < 6 → t.row (w.row r) = s.row (w.row r)) :
    t.storedRefs w = s.storedRefs w := by
  unfold State.storedRefs
  refine List.flatMap_congr fun r hr => ?_
  rw [h r (List.mem_range.1 hr)]

theorem derivedWindow_congr {t : State} {w : Win} (h : ∀ r, r < 6 → t.row (w.row r) = s.row (w.row r))
    (hl : t.store.lost = s.store.lost) : derivedWindow w t = derivedWindow w s := by
  unfold derivedWindow State.profileLost
  rw [h 0 (by decide), hl]

theorem derivedProfile_congr {t : State} {w : Win} (h : ∀ r, r < 6 → t.row (w.row r) = s.row (w.row r))
    (hl : t.store.lost = s.store.lost) : derivedProfile w t = derivedProfile w s := by
  unfold derivedProfile State.profileLost
  rw [storedRefs_congr h, hl]

theorem profileLost_iff {w : Win} : s.profileLost w = true ↔ ∃ r, r < 6 ∧ w.row r ∈ s.store.lost := by
  simp [State.profileLost]

/-- The entry `n` of profile row `r` in the list of the 32 entries (R113). -/
theorem refs_getD (f : Nat → Nat → Nat) {r n : Nat} (hr : r < 6) (hn : n < (refSpan r).2) :
    ((List.range 6).flatMap fun r => (List.range (refSpan r).2).map (f r)).getD ((refSpan r).1 + n) 0 = f r n := by
  interval_cases r <;> simp only [refSpan] at hn <;> interval_cases n <;> rfl

theorem refSpan_lt {r n : Nat} (hr : r < 6) (hn : n < (refSpan r).2) : (refSpan r).1 + n < 32 := by
  interval_cases r <;> simp only [refSpan] at hn ⊢ <;> omega

theorem derivedProfile_entry {w : Win} {r n : Nat} (h : s.profileLost w = false) (hr : r < 6) (hn : n < (refSpan r).2) :
    (derivedProfile w s)[Fin.ofNat 32 ((refSpan r).1 + n)] =
      validRef (field16 (s.row (w.row r)).toList (if r = 0 then 3 else 0) n) := by
  have hv : (Fin.ofNat 32 ((refSpan r).1 + n)).val = (refSpan r).1 + n := Nat.mod_eq_of_lt (refSpan_lt hr hn)
  rw [derivedProfile, h, if_neg (by decide), tableOf_get, hv]
  exact refs_getD (fun r n => validRef (field16 (s.row (w.row r)).toList (if r = 0 then 3 else 0) n)) hr hn

/-! ### The fob table (R115) -/

/-- A slot below `k` that is ACTIVE or SUSPENDED holds an identifier (R115). -/
def slotTaken (t : Slots Fob) (k : SlotId) (i : Word32) : Bool :=
  SlotId.list.any fun j => j.index < k.index && (t.get j).enrolled && (t.get j).ident == i

/-- The slot that its row gives beside the slots below it (R115). -/
def derivedSlot (k : SlotId) (c : Content) (t : Slots Fob) : Fob :=
  if (slotFromRow c).enrolled && slotTaken t k (slotFromRow c).ident then { Fob.reset with state := .invalid }
  else slotFromRow c

theorem deriveSlot_eq (k : SlotId) (s : State) :
    deriveSlot k s = s.modFob k fun _ => derivedSlot k (s.row k.row) s.fobs := rfl

theorem slotTaken_iff {t : Slots Fob} {k : SlotId} {i : Word32} : slotTaken t k i = true ↔
    ∃ j : SlotId, j.index < k.index ∧ (t.get j).enrolled = true ∧ (t.get j).ident = i := by
  simp [slotTaken, SlotId.mem_list, and_assoc]

theorem slotTaken_congr {t u : Slots Fob} {k : SlotId} (h : ∀ j : SlotId, j.index < k.index → t.get j = u.get j)
    (i : Word32) : slotTaken t k i = slotTaken u k i := by
  rw [Bool.eq_iff_iff, slotTaken_iff, slotTaken_iff]
  exact exists_congr fun j => and_congr_right fun hj => by rw [h j hj]

/-- The slots in their order around one of them. -/
theorem SlotId.list_split (k : SlotId) : ∃ below above, SlotId.list = below ++ k :: above
    ∧ ∀ j ∈ k :: above, k.index ≤ j.index := by
  cases k
  · exact ⟨[], [.s1, .s2, .s3, .s4, .s5], rfl, by decide⟩
  · exact ⟨[.s0], [.s2, .s3, .s4, .s5], rfl, by decide⟩
  · exact ⟨[.s0, .s1], [.s3, .s4, .s5], rfl, by decide⟩
  · exact ⟨[.s0, .s1, .s2], [.s4, .s5], rfl, by decide⟩
  · exact ⟨[.s0, .s1, .s2, .s3], [.s5], rfl, by decide⟩
  · exact ⟨[.s0, .s1, .s2, .s3, .s4], [], rfl, by decide⟩

theorem SlotId.list_nodup : SlotId.list.Nodup := by decide

theorem deriveSlots_absent {ls : List SlotId} {j : SlotId} (h : j ∉ ls) (s : State) :
    (ls.foldl (fun s k => deriveSlot k s) s).fobs.get j = s.fobs.get j := by
  induction ls generalizing s with
  | nil => rfl
  | cons k ls ih =>
    rw [List.foldl_cons, ih (List.not_mem_of_not_mem_cons h), deriveSlot_eq, modFob_get_ne (List.ne_of_not_mem_cons h)]

theorem deriveSlots_row (ls : List SlotId) (l : LRow) (s : State) :
    (ls.foldl (fun s k => deriveSlot k s) s).row l = s.row l := by
  rw [Moves.deriveSlots_with]
  rfl

/-- Each slot after the derivation, beside the derived slots below it (R115). -/
theorem deriveSlots_get (k : SlotId) (s : State) :
    (SlotId.list.foldl (fun s k => deriveSlot k s) s).fobs.get k =
      derivedSlot k (s.row k.row) (SlotId.list.foldl (fun s k => deriveSlot k s) s).fobs := by
  obtain ⟨below, above, hl, hle⟩ := SlotId.list_split k
  have hnd := SlotId.list_nodup
  rw [hl] at hnd ⊢
  have hk : k ∉ above := (List.nodup_cons.1 (List.nodup_append.1 hnd).2.1).1
  rw [List.foldl_append, List.foldl_cons]
  set u := below.foldl (fun s k => deriveSlot k s) s with hu
  have hlow : ∀ j : SlotId, j.index < k.index →
      u.fobs.get j = (above.foldl (fun s k => deriveSlot k s) (deriveSlot k u)).fobs.get j := fun j hj => by
    have hj' : j ∉ k :: above := fun hm => absurd (hle j hm) (Nat.not_le.2 hj)
    rw [← List.foldl_cons (f := fun s k => deriveSlot k s), deriveSlots_absent hj']
  have e : (deriveSlot k u).fobs.get k = derivedSlot k (s.row k.row) u.fobs := by
    rw [deriveSlot_eq, modFob_get, hu, deriveSlots_row]
  rw [deriveSlots_absent hk, e]
  unfold derivedSlot
  rw [slotTaken_congr hlow]

/-- `y` is `x` with at most the store queue and the rows of the fob slots moved. -/
structure FobRowsMoved (x y : Store) : Prop where
  isVolatile : ∀ l : LRow, y.shadows[l].isVolatile = x.shadows[l].isVolatile
  rows : ∀ l : LRow, (∀ k : SlotId, l ≠ k.row) → y.shadows[l].content = x.shadows[l].content

theorem SlotId.row_val (k : SlotId) : k.row.val = 5 + k.index := by cases k <;> rfl

theorem SlotId.row_inj {j k : SlotId} (h : j.row = k.row) : j = k := by
  have := congrArg Fin.val h
  rw [SlotId.row_val, SlotId.row_val] at this
  exact Moves.index_inj (by omega)

/-- The rows of a list of slots written anew, those of the slots left ACTIVE or SUSPENDED (R115). -/
structure SlotsRewritten (ls : List SlotId) (s t : State) : Prop where
  alone : t = s.withStore t.store
  moved : FobRowsMoved s.store t.store
  kept : ∀ l ∈ s.store.queue, l ∈ t.store.queue
  absent : ∀ k ∉ ls, t.row k.row = s.row k.row
  written : ∀ k ∈ ls, (s.fobs.get k).enrolled = true → t.row k.row = fobRow (s.fobs.get k)
    ∧ (s.store.shadows[k.row].isVolatile = false → k.row ∈ t.store.queue)

theorem rewriteSlot_empty {k : SlotId} (h : (s.fobs.get k).enrolled = false) : rewriteSlot k s = s :=
  if_neg (by rw [h]; decide)

theorem rewriteSlot_enrolled {k : SlotId} (h : (s.fobs.get k).enrolled = true) :
    rewriteSlot k s = storeWrite k.row (fobRow (s.fobs.get k)) s := if_pos h

theorem rewriteSlot_alone (k : SlotId) (h : s.sys.mode ≠ .park) :
    rewriteSlot k s = s.withStore (rewriteSlot k s).store := by
  cases he : (s.fobs.get k).enrolled with
  | false => rw [rewriteSlot_empty he]; rfl
  | true => rw [rewriteSlot_enrolled he]; exact storeWrite_alone _ _ h

theorem rewriteSlot_moved (k : SlotId) (s : State) : FobRowsMoved s.store (rewriteSlot k s).store := by
  cases he : (s.fobs.get k).enrolled with
  | false => rw [rewriteSlot_empty he]; exact ⟨fun _ => rfl, fun _ _ => rfl⟩
  | true =>
    rw [rewriteSlot_enrolled he]
    exact ⟨fun _ => storeWrite_isVolatile _ _ _ _, fun l hl => by rw [storeWrite_content, if_neg (hl k)]⟩

theorem rewriteSlot_queue (k : SlotId) {l : LRow} (h : l ∈ s.store.queue) : l ∈ (rewriteSlot k s).store.queue := by
  cases he : (s.fobs.get k).enrolled with
  | false => rw [rewriteSlot_empty he]; exact h
  | true => rw [rewriteSlot_enrolled he]; exact storeWrite_keeps _ _ h

theorem rewriteSlot_row_ne {j k : SlotId} (h : j ≠ k) (s : State) : (rewriteSlot k s).row j.row = s.row j.row := by
  cases he : (s.fobs.get k).enrolled with
  | false => rw [rewriteSlot_empty he]
  | true =>
    rw [rewriteSlot_enrolled he, State.row, storeWrite_content, if_neg fun e => h (SlotId.row_inj e)]
    rfl

/-- A row that is not volatile waits in the store queue after a write (R170). -/
theorem storeWrite_queued {l : LRow} (c : Content) (h : s.store.shadows[l].isVolatile = false) :
    l ∈ (storeWrite l c s).store.queue := by
  rw [storeWrite_store]
  dsimp only
  split
  · rename_i hq
    exact hq.resolve_left (by rw [h]; decide)
  · exact List.mem_append_right _ (List.mem_singleton_self _)

theorem slotsRewritten : ∀ (ls : List SlotId) (s : State), ls.Nodup → s.sys.mode ≠ .park →
    SlotsRewritten ls s (ls.foldl (fun s k => rewriteSlot k s) s)
  | [], s, _, _ => ⟨rfl, ⟨fun _ => rfl, fun _ _ => rfl⟩, fun _ h => h, fun _ _ => rfl, by simp⟩
  | a :: ls, s, hn, hm => by
    obtain ⟨ha, hn⟩ := List.nodup_cons.1 hn
    have e := rewriteSlot_alone a hm
    have hs : (rewriteSlot a s).sys = s.sys := (congrArg State.sys e).trans rfl
    have hf : (rewriteSlot a s).fobs = s.fobs := (congrArg State.fobs e).trans rfl
    have hv := rewriteSlot_moved a s
    obtain ⟨h1, h2, h3, h4, h5⟩ := slotsRewritten ls (rewriteSlot a s) hn (by rw [hs]; exact hm)
    rw [List.foldl_cons]
    generalize ls.foldl (fun s k => rewriteSlot k s) (rewriteSlot a s) = t at h1 h2 h3 h4 h5
    refine ⟨?_, ⟨fun l => (h2.isVolatile l).trans (hv.isVolatile l), fun l hl => (h2.rows l hl).trans (hv.rows l hl)⟩,
      fun l hl => h3 l (rewriteSlot_queue a hl), fun k hk => ?_, fun k hk he => ?_⟩
    · rw [e] at h1
      exact h1
    · rw [h4 k (List.not_mem_of_not_mem_cons hk), rewriteSlot_row_ne (List.ne_of_not_mem_cons hk)]
    · by_cases hka : k = a
      · subst hka
        rw [h4 k ha, rewriteSlot_enrolled he, State.row, storeWrite_content, if_pos rfl]
        exact ⟨rfl, fun hv => h3 _ (by rw [rewriteSlot_enrolled he]; exact storeWrite_queued _ hv)⟩
      · have := h5 k ((List.mem_cons.1 hk).resolve_left hka) (by rw [hf]; exact he)
        rw [hf, hv.isVolatile] at this
        exact this

end Sys2Proof.Machine
end

section
/-! The crash record along the operations of the arbiter and of the groups, which leave it, and the end of STARTING (R157,
R177 to R179, R199). -/

namespace Sys2Proof.Machine

variable {s : State}

/-! ### The crash record stands (R13 to R40)

Each operation leaves the crash record; the later ones rest on the earlier ones, as their definitions do. -/

@[simp] theorem offer_crash (e : Ev) (s : State) : (offer e s).crash = s.crash := (Records.offer e s).crash

@[simp] theorem settleList_crash (a : Actuator) (o : Settled) (ids : List Nat) (s : State) :
    (settleList a o ids s).crash = s.crash := (Records.settleList a o ids s).crash

@[simp] theorem testCompletion_crash (id : Nat) (s : State) : (testCompletion id s).crash = s.crash :=
  (Records.testCompletion id s).crash

@[simp] theorem setLatchState_crash (l : Latch) (v : LatchState) (s : State) :
    (setLatchState l v s).crash = s.crash := by
  cases l with
  | tg => rfl
  | fl | fr | rl | rr =>
    rw [setLatchState_side rfl]
    split
    · rfl
    · exact (Records.storeWrite _ _ _).crash

@[simp] theorem reconcileLatch_crash (l : Latch) (s : State) : (reconcileLatch l s).crash = s.crash := by
  unfold reconcileLatch
  dsimp only
  split
  · exact setLatchState_crash _ _ _
  · rfl
  · exact setLatchState_crash _ _ _
  · rfl

@[simp] theorem addHold_crash (a : Actuator) (s : State) : (addHold a s).crash = s.crash := by
  unfold addHold
  split <;> rfl

@[simp] theorem brakeWindow_crash (w : Win) (s : State) : (brakeWindow w s).crash = s.crash := by
  unfold brakeWindow
  split <;> rfl

@[simp] theorem windowRevoked_crash (w : Win) (c : StopCause) (s : State) : (windowRevoked w c s).crash = s.crash :=
  brakeWindow_crash w s

@[simp] theorem revokeWindow_crash (w : Win) (s : State) : (revokeWindow w s).crash = s.crash := by
  unfold revokeWindow
  rw [offer_crash, windowRevoked_crash, addHold_crash]
  rfl

@[simp] theorem revokeUntil_crash (f : State → Bool) (ws : List Win) (s : State) :
    (revokeUntil f ws s).crash = s.crash := by
  induction ws generalizing s with
  | nil => rfl
  | cons w ws ih =>
    unfold revokeUntil
    split
    · rfl
    · rw [ih, revokeWindow_crash]

theorem startRun_crash (w : Win) (d : WDir) (s : State) : (startRun w d s).crash = s.crash := by
  cases d <;> rfl

@[simp] theorem startDrive_crash (e : Entry) (s : State) : (startDrive e s).crash = s.crash := by
  unfold startDrive
  split
  · rfl
  · rfl
  · rfl
  · exact startRun_crash _ _ _

@[simp] theorem grantEntry_crash (e : Entry) (s : State) : (grantEntry e s).crash = s.crash := by
  rw [grantEntry_eq, startDrive_crash]
  rfl

@[simp] theorem reportHold_crash (e : Entry) (s : State) : (reportHold e s).crash = s.crash := by
  unfold reportHold
  split
  · rfl
  · rw [offer_crash]
    rfl

@[simp] theorem roomFor_crashUnit (e : Entry) (s : State) : (s.roomFor e).crash = s.crash := by
  unfold State.roomFor
  split
  · rfl
  · split
    · exact revokeUntil_crash _ _ _
    · rfl

@[simp] theorem walk_crash (q : List Entry) (s : State) : (walk q s).crash = s.crash := by
  induction q generalizing s with
  | nil => rfl
  | cons e rest ih =>
    cases hb : s.busy e with
    | true => rw [walk_busy rest hb, ih]
    | false =>
      cases hh : s.hotHeld e with
      | true => rw [walk_hot rest hb hh, ih, reportHold_crash]
      | false =>
        cases ho : s.overHeld e with
        | true => rw [walk_over rest hb hh ho, ih]
        | false =>
          rw [walk_eligible rest hb hh ho]
          split
          · rw [ih, grantEntry_crash, roomFor_crashUnit]
          · exact roomFor_crashUnit e s

@[simp] theorem scan_crash (s : State) : (scan s).crash = s.crash := by
  unfold scan
  split
  · rfl
  · exact walk_crash _ _

@[simp] theorem enqueue_crashUnit (r : Request) (s : State) : (enqueue r s).1.crash = s.crash := by
  unfold enqueue
  split
  · exact scan_crash _
  · split
    · rw [scan_crash, replaceEntry, settleList_crash]
      rfl
    · rfl

@[simp] theorem preempt_crash (l : Latch) (d : Drive) (s : State) : (preempt l d s).crash = s.crash := by
  unfold preempt abortLock
  rw [settleList_crash, reconcileLatch_crash]
  exact addHold_crash _ _

@[simp] theorem submit_crash (r : Request) (s : State) : (submit r s).1.crash = s.crash := by
  unfold submit
  split
  · exact enqueue_crashUnit r s
  · split
    · rfl
    · split
      · split
        · rw [enqueue_crashUnit, preempt_crash]
        · exact enqueue_crashUnit r s
      · exact enqueue_crashUnit r s

@[simp] theorem submitMember_crash (op : Operation) (id : Option Nat) (a : Actuator) (x : State × Tally) :
    (submitMember op id a x).1.crash = x.1.crash := by
  unfold submitMember
  dsimp only
  split
  · cases id <;> rfl
  · split
    · exact submit_crash _ _
    · exact submit_crash _ _
    · cases id <;> exact submit_crash _ _

@[simp] theorem submitMembers_crash (op : Operation) (id : Option Nat) (s : State) :
    (submitMembers op id s).1.crash = s.crash := by
  unfold submitMembers
  generalize ({ queued := false, merged := false, taken := false } : Tally) = t
  generalize hx : (s, t) = x
  rw [show s.crash = x.1.crash by rw [← hx]]
  clear hx
  induction op.members generalizing x with
  | nil => rfl
  | cons a ms ih => rw [List.foldl_cons, ih, submitMember_crash]

@[simp] theorem runGroup_crash (op : Operation) (s : State) : (runGroup op s).1.crash = s.crash := by
  unfold runGroup
  dsimp only
  split
  · rw [testCompletion_crash, submitMembers_crash]
    rfl
  · show (submitMembers op _ _).1.crash = _
    rw [submitMembers_crash]
    rfl

@[simp] theorem runInternal_crash (op : Operation) (s : State) : (runInternal op s).1.crash = s.crash := by
  unfold runInternal
  split
  · exact submitMembers_crash _ _ _
  · exact runGroup_crash _ _

/-! ### The crash at the end of STARTING (R157) -/

/-- The crash unlock of a latched crash, as STARTING ends (R157). -/
def latchedUnlock (s : State) : State := if s.crash.latched then (unlockLocked none s).1 else s

/-- Outside PARK the latches not UNLOCKED, if any, are unlocked by one group (R156, R157). -/
theorem unlockLocked_eq (p : Option Port) (h : s.sys.mode ≠ .park) : unlockLocked p s =
    if s.lockedLatches = [] then (s, 0) else crashUnlock p s.lockedLatches s := by
  unfold unlockLocked
  split
  · rename_i e
    rw [if_pos e]
  · rename_i hn
    rw [if_neg hn, wake_of_ne_park h]

theorem latchedUnlock_eq (h : s.sys.mode ≠ .park) : latchedUnlock s =
    if s.crash.latched = true ∧ s.lockedLatches ≠ [] then (crashUnlock none s.lockedLatches s).1 else s := by
  rw [latchedUnlock, unlockLocked_eq none h]
  by_cases hl : s.crash.latched = true
  · by_cases he : s.lockedLatches = []
    · rw [if_pos hl, if_pos he, if_neg fun k => k.2 he]
    · rw [if_pos hl, if_neg he, if_pos ⟨hl, he⟩]
  · rw [if_neg hl, if_neg fun k => hl k.1]

theorem latchedUnlock_crash (h : s.sys.mode ≠ .park) : (latchedUnlock s).crash = s.crash := by
  rw [latchedUnlock_eq h]
  split
  · exact runInternal_crash _ _
  · rfl

theorem startCrash_eq (s : State) : startCrash s = if (latchedUnlock s).crash.held then
    (takeCrash none 0 ((latchedUnlock s).withCrash { (latchedUnlock s).crash with held := false })).1
    else latchedUnlock s := rfl

/-! ### Every record derived (R199) -/

theorem LatchesDerived.sys {ls : List Latch} {t : State} (h : LatchesDerived ls s t) : t.sys = s.sys :=
  (congrArg State.sys h.alone).trans rfl

theorem LatchesDerived.pins {ls : List Latch} {t : State} (h : LatchesDerived ls s t) : t.pins = s.pins :=
  (congrArg State.pins h.alone).trans rfl

theorem ChildrenDerived.pins {t : State} (h : ChildrenDerived s t) : t.pins = s.pins :=
  (congrArg State.pins h.alone).trans rfl

theorem WindowsDerived.pins {ws : List Win} {t : State} (h : WindowsDerived ws s t) : t.pins = s.pins :=
  (congrArg State.pins h.alone).trans rfl

theorem WindowsDerived.store {ws : List Win} {t : State} (h : WindowsDerived ws s t) : t.store = s.store :=
  (congrArg State.store h.alone).trans rfl

theorem ChansDerived.store {cs : List Chan} {t : State} (h : ChansDerived cs s t) : t.store = s.store :=
  (congrArg State.store h.alone).trans rfl

/-- The state after the first reading of DSIDE (R199). -/
def dsideRead (s : State) : State := s.withSys { s.sys with dside := s.pins.dside }

/-- The derivation of the records stage by stage: the state after the latches `a`, the child locks `b`, the windows `c`,
the channels `d`, and the fob slots `e` before their rows are written. -/
structure Derivation (s a b c d e : State) : Prop where
  latches : LatchesDerived Latch.list (dsideRead s) a
  children : ChildrenDerived a b
  windows : WindowsDerived Win.list (deriveInhibit b) c
  chans : ChansDerived Chan.list c d
  fobs : e = d.withFobs e.fobs
  slots : ∀ k, e.fobs.get k = derivedSlot k (d.row k.row) e.fobs

namespace Derivation

variable {a b c d e : State}

/-- The stages as one update of the state. -/
theorem alone (D : Derivation s a b c d e) : e = (((((((dsideRead s).withLatches a.latches).withStore b.store).withChild
    (deriveInhibit b).child).withWindows c.windows).withProfiles c.profiles).withChans d.chans).withFobs e.fobs := by
  have hi : deriveInhibit b = b.withChild (deriveInhibit b).child := rfl
  have ha := D.latches.alone
  have hb := D.children.alone
  have hc := D.windows.alone
  have hd := D.chans.alone
  have he := D.fobs
  generalize (deriveInhibit b).child = k at hi ⊢
  rw [hi] at hc
  rw [hc] at hd
  rw [hd] at he
  rw [ha] at hb
  rw [hb] at he
  exact he

theorem store (D : Derivation s a b c d e) : e.store = b.store := (congrArg State.store D.alone).trans rfl

theorem sys (D : Derivation s a b c d e) : e.sys = { s.sys with dside := s.pins.dside } :=
  (congrArg State.sys D.alone).trans rfl

end Derivation

/-- The derivation runs through its stages; the rows of the slots and the crash record come last (R199). -/
theorem exists_derivation (h : s.sys.mode ≠ .park) : ∃ a b c d e f, Derivation s a b c d e
    ∧ SlotsRewritten SlotId.list e f ∧ deriveRecords s = deriveCrash f := by
  have hl := latchesDerived Latch.list (dsideRead s) (by decide) h
  have hc := childrenDerived (by rw [hl.sys]; exact h)
  have D : Derivation s _ _ _ _ _ := ⟨hl, hc, windowsDerived _ _ (by decide), chansDerived _ _ (by decide),
    Moves.deriveSlots_with _ _, fun k => deriveSlots_get k _⟩
  exact ⟨_, _, _, _, _, _, D, slotsRewritten _ _ SlotId.list_nodup (by rw [D.sys]; exact h), rfl⟩

namespace Derivation

variable {a b c d e f : State}

/-! What the stages read of the store. -/

/-- The rows other than the STATE row, as the later stages read them. -/
theorem row (D : Derivation s a b c d e) {l : LRow} (hl : l ≠ stateRow) : b.row l = s.row l :=
  (D.children.moved.rows l hl).trans (D.latches.moved.rows l hl)

theorem lost (D : Derivation s a b c d e) : b.store.lost = s.store.lost :=
  D.children.moved.lost.trans D.latches.moved.lost

theorem isVolatile (D : Derivation s a b c d e) (l : LRow) :
    b.store.shadows[l].isVolatile = s.store.shadows[l].isVolatile :=
  (D.children.moved.isVolatile l).trans (D.latches.moved.isVolatile l)

/-- The bytes of the STATE row that no stage writes. -/
theorem byte (D : Derivation s a b c d e) {j : Nat} (hj : j < 13) (h3 : j ≠ 3) (h4 : j ≠ 4) :
    (b.row stateRow)[j] = (s.row stateRow)[j] :=
  (D.children.moved.bytes j hj h4).trans (D.latches.moved.bytes j hj h3)

theorem cfg (D : Derivation s a b c d e) : b.cfg = s.cfg := by
  unfold State.cfg
  rw [D.row (by decide), D.row (by decide), D.row (by decide), D.row (by decide)]

theorem slotRow_ne_stateRow (k : SlotId) : k.row ≠ stateRow := by cases k <;> decide

theorem profileRow_ne_stateRow (w : Win) {r : Nat} (hr : r < 6) : w.row r ≠ stateRow := by
  intro h
  have := congrArg Fin.val h
  rw [Win.row_val w hr] at this
  have h4 : stateRow.val = 4 := rfl
  omega

/-- The rows of the slots leave the STATE row. -/
theorem stateRow_written (D : Derivation s a b c d e) (R : SlotsRewritten SlotId.list e f) :
    f.row stateRow = b.row stateRow := by
  have := R.moved.rows stateRow fun k => (slotRow_ne_stateRow k).symm
  rwa [D.store] at this

/-! What the stages give, block by block (R25, R55, R62, R63, R66, R70, R115, R147). -/

theorem latch (D : Derivation s a b c d e) (l : Latch) : a.latches.get l = derivedLatch l s := by
  rw [D.latches.records, if_pos (Latch.mem_list l)]
  rfl

theorem deadlockBit (D : Derivation s a b c d e) (R : SlotsRewritten SlotId.list e f) {l : Latch} {n : Nat}
    (hn : deadBit l = some n) :
    (deriveCrash f).deadlockBits.getLsbD n = (s.deadStored l && s.pins.latchpos.get l == .locked) := by
  have h1 : (deriveCrash f).deadlockBits = b.deadlockBits := deadlockBits_congr (by
    show (f.row stateRow)[3] = _
    rw [D.stateRow_written R])
  have h2 : b.deadlockBits = a.deadlockBits :=
    deadlockBits_congr (D.children.moved.bytes 3 (by decide) (by decide))
  rw [h1, h2, D.latches.bits l n hn, if_pos (Latch.mem_list l), State.deadStored, hn]
  rfl

theorem childRec (D : Derivation s a b c d e) (x : Side) : b.child.recs.get x = derivedChild x s := by
  rw [D.children.records, derivedChild, D.latches.pins]
  rfl

theorem copy (D : Derivation s a b c d e) (R : SlotsRewritten SlotId.list e f) (x : Side) :
    (deriveCrash f).childCopies.getLsbD (childBit x) = (s.pins.chpos.get x == .engaged) := by
  have h1 : (deriveCrash f).childCopies = b.childCopies := childCopies_congr (by
    show (f.row stateRow)[4] = _
    rw [D.stateRow_written R])
  rw [h1, D.children.copies, State.copyRead, D.latches.pins]
  rfl

theorem rearInhibit (D : Derivation s a b c d e) :
    (deriveInhibit b).child.rearInhibit = ((s.row stateRow)[2] == 1) := by
  rw [← D.byte (j := 2) (by decide) (by decide) (by decide)]
  rfl

theorem effective (D : Derivation s a b c d e) (x : Side) : (deriveInhibit b).child.effective.get x =
    ((deriveInhibit b).child.rearInhibit || (s.cfg.childLink && s.pins.chpos.get x == .engaged)) := by
  have h : (deriveInhibit b).child.effective.get x =
      ((deriveInhibit b).child.rearInhibit || (b.cfg.childLink && (b.child.recs.get x).state == .engaged)) := by
    cases x <;> rfl
  rw [h, D.cfg, D.childRec]
  rfl

theorem window (D : Derivation s a b c d e) (w : Win) : c.windows.get w = derivedWindow w s := by
  rw [D.windows.records, if_pos (by cases w <;> decide)]
  exact derivedWindow_congr (fun r hr => D.row (profileRow_ne_stateRow w hr)) D.lost

theorem profile (D : Derivation s a b c d e) (w : Win) : c.profiles.get w = derivedProfile w s := by
  rw [D.windows.profiles, if_pos (by cases w <;> decide)]
  exact derivedProfile_congr (fun r hr => D.row (profileRow_ne_stateRow w hr)) D.lost

theorem chan (D : Derivation s a b c d e) (x : Chan) : d.chans.get x = derivedChan x s := by
  have hp : c.pins = s.pins := by
    rw [D.windows.pins, show (deriveInhibit b).pins = b.pins from rfl, D.children.pins, D.latches.pins]
    rfl
  rw [D.chans.records, if_pos (Chan.mem_list x), derivedChan, hp]
  rfl

theorem slot (D : Derivation s a b c d e) (k : SlotId) : e.fobs.get k = derivedSlot k (s.row k.row) e.fobs := by
  have h : d.row k.row = b.row k.row := by
    unfold State.row
    rw [D.chans.store, D.windows.store]
    rfl
  rw [D.slots, h, D.row (slotRow_ne_stateRow k)]

/-- The row of a slot left ACTIVE or SUSPENDED is written (R115). -/
theorem slotRow (D : Derivation s a b c d e) (R : SlotsRewritten SlotId.list e f) {k : SlotId}
    (he : (e.fobs.get k).enrolled = true) : f.row k.row = fobRow (e.fobs.get k)
      ∧ (s.store.shadows[k.row].isVolatile = false → k.row ∈ f.store.queue) := by
  obtain ⟨hr, hq⟩ := R.written k (SlotId.mem_list k) he
  refine ⟨hr, fun hv => hq ?_⟩
  rw [D.store, D.isVolatile]
  exact hv

theorem crash (D : Derivation s a b c d e) (R : SlotsRewritten SlotId.list e f) : (deriveCrash f).crash = { s.crash with
    latched := (s.row stateRow)[0] == 1
    severity := if (s.row stateRow)[1].toNat ≤ 3 then (s.row stateRow)[1].toNat else 0 } := by
  have hf : f.crash = e.crash := (congrArg State.crash R.alone).trans rfl
  have he : e.crash = s.crash := by
    rw [D.alone]
    simp only [dsideRead, State.withFobs_crash, State.withChans_crash, State.withProfiles_crash, State.withWindows_crash,
      State.withChild_crash, State.withStore_crash, State.withLatches_crash, State.withSys_crash]
  have e0 : (f.row stateRow)[0] = (s.row stateRow)[0] := by
    rw [D.stateRow_written R, D.byte (by decide) (by decide) (by decide)]
  have e1 : (f.row stateRow)[1] = (s.row stateRow)[1] := by
    rw [D.stateRow_written R, D.byte (by decide) (by decide) (by decide)]
  rw [← he, ← hf, ← e0, ← e1]
  rfl

end Derivation

/-- The derivation with the rows of the slots as one update of the state (R199). -/
theorem deriveRecords_alone {a b c d e f : State} (D : Derivation s a b c d e) (R : SlotsRewritten SlotId.list e f) :
    deriveCrash f = (((((((((dsideRead s).withLatches a.latches).withStore b.store).withChild
      (deriveInhibit b).child).withWindows c.windows).withProfiles c.profiles).withChans d.chans).withFobs
      e.fobs).withStore f.store).withCrash (deriveCrash f).crash :=
  calc deriveCrash f
    _ = f.withCrash (deriveCrash f).crash := rfl
    _ = (e.withStore f.store).withCrash (deriveCrash f).crash := congrArg (State.withCrash · _) R.alone
    _ = _ := congrArg (fun u => (State.withStore u _).withCrash _) D.alone

/-- A slot as its row alone gives it (R115, R178). -/
theorem slotFromRow_empty {c : Content} (h : c.toList.getD 8 0 = 0) : slotFromRow c = Fob.reset := if_pos h

theorem slotFromRow_invalid {c : Content} (h0 : c.toList.getD 8 0 ≠ 0) (h1 : c.toList.getD 8 0 ≠ 1)
    (h2 : c.toList.getD 8 0 ≠ 2) : slotFromRow c = { Fob.reset with state := .invalid } :=
  (if_neg h0).trans ((if_neg h1).trans (if_neg h2))

theorem slotFromRow_kept {c : Content} (h : c.toList.getD 8 0 = 1 ∨ c.toList.getD 8 0 = 2) :
    let b (n : Nat) : Byte := c.toList.getD n 0
    let k := word32 (b 4) (b 5) (b 6) (b 7)
    slotFromRow c = { state := if b 8 = 1 then .active else .suspended, ident := word32 (b 0) (b 1) (b 2) (b 3)
                      counter := k, ceiling := k + 32, resync := none
                      mode := if b 9 = 1 then .global else .selective, comfort := b 10 == 1, failures := 0
                      verdict := .none, press := none } := by
  have h0 : c.toList.getD 8 0 ≠ 0 := by obtain h | h := h <;> rw [h] <;> decide
  obtain h | h := h
  · have e : slotFromRow c = _ := (if_neg h0).trans (if_pos h)
    simp only [e, h]
    rfl
  · have h1 : c.toList.getD 8 0 ≠ 1 := by rw [h]; decide
    have e : slotFromRow c = _ := (if_neg h0).trans ((if_neg h1).trans (if_pos h))
    simp only [e, if_neg h1]
    rfl

/-- The window record and the profile of a window that lost a row (R66). -/
theorem derivedWindow_lost {w : Win} (h : s.profileLost w = true) : derivedWindow w s = { WindowRec.reset with
    pmax := if w.row 0 ∈ s.store.lost then none else validPmax (field16 (s.row (w.row 0)).toList 0 0)
    norm := .unlearned } := by
  unfold derivedWindow
  simp [h]

theorem derivedProfile_lost {w : Win} (h : s.profileLost w = true) (z : Fin 32) : (derivedProfile w s)[z] = 0 := by
  unfold derivedProfile
  simp [h]

theorem derivedWindow_whole {w : Win} (h : s.profileLost w = false) : derivedWindow w s = { WindowRec.reset with
    pmax := validPmax (field16 (s.row (w.row 0)).toList 0 0)
    norm := if (validPmax (field16 (s.row (w.row 0)).toList 0 0)).isSome = true
        ∧ (s.row (w.row 0)).toList.getD 2 0 = 1 then .positionLost else .unlearned } := by
  have h0 : w.row 0 ∉ s.store.lost := fun hm =>
    absurd (profileLost_iff.2 ⟨0, by decide, hm⟩) (by rw [h]; decide)
  unfold derivedWindow
  simp [h, h0]

/-- What the derivation gives (R25, R55, R62, R63, R66, R70, R115, R147, R199). -/
theorem recordsDerived (h : s.sys.mode = .starting) :
    let t := deriveRecords s
    t.sys = { s.sys with dside := s.pins.dside }
      ∧ (∀ l, t.latches.get l = derivedLatch l s ∧ ∀ n, deadBit l = some n →
          t.deadlockBits.getLsbD n = (s.deadStored l && s.pins.latchpos.get l == .locked))
      ∧ (∀ c, t.child.recs.get c = derivedChild c s
          ∧ t.childCopies.getLsbD (childBit c) = (s.pins.chpos.get c == .engaged)
          ∧ t.child.effective.get c = (t.child.rearInhibit || (s.cfg.childLink && s.pins.chpos.get c == .engaged)))
      ∧ t.child.rearInhibit = ((s.row stateRow)[2] == 1)
      ∧ (∀ w, t.windows.get w = derivedWindow w s ∧ t.profiles.get w = derivedProfile w s)
      ∧ (∀ c, t.chans.get c = derivedChan c s)
      ∧ (∀ k, t.fobs.get k = derivedSlot k (s.row k.row) t.fobs
          ∧ ((t.fobs.get k).enrolled = true → t.row k.row = fobRow (t.fobs.get k)
              ∧ (s.store.shadows[k.row].isVolatile = false → k.row ∈ t.store.queue)))
      ∧ t.crash = { s.crash with
          latched := (s.row stateRow)[0] == 1
          severity := if (s.row stateRow)[1].toNat ≤ 3 then (s.row stateRow)[1].toNat else 0 }
      ∧ t.arb = s.arb ∧ t.stages = s.stages ∧ t.events = s.events := by
  obtain ⟨a, b, c, d, e, f, D, R, ht⟩ := exists_derivation (s := s) (by rw [h]; decide)
  have u := deriveRecords_alone D R
  have hcrash := D.crash R
  have hdead := @Derivation.deadlockBit _ _ _ _ _ _ _ D R
  have hcopy := D.copy R
  have hrow : ∀ l, (deriveCrash f).row l = f.row l := fun l => rfl
  have hqueue : (deriveCrash f).store = f.store := rfl
  dsimp only
  rw [ht]
  generalize deriveCrash f = t at u hcrash hdead hcopy hrow hqueue
  have hlatches : t.latches = a.latches := (congrArg State.latches u).trans rfl
  have hchild : t.child = (deriveInhibit b).child := (congrArg State.child u).trans rfl
  have hwindows : t.windows = c.windows := (congrArg State.windows u).trans rfl
  have hprofiles : t.profiles = c.profiles := (congrArg State.profiles u).trans rfl
  have hchans : t.chans = d.chans := (congrArg State.chans u).trans rfl
  have hfobs : t.fobs = e.fobs := (congrArg State.fobs u).trans rfl
  refine ⟨?sys, fun l => ⟨?latch, fun n hn => hdead hn⟩, fun x => ⟨?child, hcopy x, ?effective⟩, ?rear,
    fun w => ⟨?window, ?profile⟩, fun x => ?chan, fun k => ⟨?slot, fun he => ?row⟩, hcrash, ?arb, ?stages, ?events⟩
  case sys | arb | stages | events => rw [u]; simp [dsideRead]
  case latch => rw [hlatches, D.latch]
  case child => rw [hchild]; exact D.childRec x
  case effective => rw [hchild]; exact D.effective x
  case rear => rw [hchild]; exact D.rearInhibit
  case window => rw [hwindows, D.window]
  case profile => rw [hprofiles, D.profile]
  case chan => rw [hchans, D.chan]
  case slot => rw [hfobs]; exact D.slot k
  case row =>
    rw [hfobs] at he ⊢
    rw [hrow, hqueue]
    exact D.slotRow R he

/-! ### The ends of the scan and of STARTING (R177 to R179, R199) -/

theorem exec_startingEnd {d : Time} (h : s.sys.startDue = some d) :
    exec .startingEnd s = .next (refreshPark (endStarting (reach d s))) := by
  show onTimer s.sys.startDue endStarting s = _
  rw [h, onTimer_due]

/-- The end of STARTING, the scan taken before if it is still due (R199). -/
theorem endStarting_eq (s : State) : endStarting s = startPlayback (offer .powerOn
    (let v := if s.sys.scanDue = none then s else endScan s
     let u := startCrash (deriveRecords (v.withSys { v.sys with startDue := none }))
     u.withSys { u.sys with mode := .run })) := by
  cases hd : s.sys.scanDue with
  | none =>
    have e : (if s.sys.scanDue.isSome then endScan s else s) = s := if_neg (by rw [hd]; decide)
    rw [if_pos rfl]
    show startPlayback (offer .powerOn (State.withSys (startCrash (deriveRecords (State.withSys
      (if s.sys.scanDue.isSome then endScan s else s) _))) _)) = _
    rw [e]
  | some d =>
    have e : (if s.sys.scanDue.isSome then endScan s else s) = endScan s := if_pos (by rw [hd]; rfl)
    rw [if_neg (Option.some_ne_none d)]
    show startPlayback (offer .powerOn (State.withSys (startCrash (deriveRecords (State.withSys
      (if s.sys.scanDue.isSome then endScan s else s) _))) _)) = _
    rw [e]

/-- The crash unlock and the held crash, as STARTING ends (R157; R199, step 3). -/
theorem startCrash_cases (h : s.sys.mode = .starting) :
    (s.crash.held = false → startCrash s = latchedUnlock s)
      ∧ (s.crash.held = true → startCrash s =
          (takeCrash none 0 ((latchedUnlock s).withCrash { (latchedUnlock s).crash with held := false })).1) := by
  have hc : (latchedUnlock s).crash.held = s.crash.held := by rw [latchedUnlock_crash (by rw [h]; decide)]
  refine ⟨fun hh => ?_, fun hh => ?_⟩
  · rw [startCrash_eq, if_neg (by rw [hc, hh]; decide)]
  · rw [startCrash_eq, if_pos (by rw [hc, hh])]

/-- Settles O4. -/
theorem startingEnds : Obligations.StartingEnds := by
  refine ⟨?scanEnd, ?startEnd, newer_iff, fun array c => mem_claimsOf, claimsOf_ascending, fun l => rfl,
    winningClaim_append, ?scan, fun c => ⟨slotFromRow_empty, slotFromRow_kept, slotFromRow_invalid⟩, ?derive, ?crash⟩
  case scanEnd =>
    intro d s h
    show onTimer s.sys.scanDue endScan s = _
    rw [h, onTimer_due]
  case startEnd =>
    intro d s h
    rw [exec_startingEnd h, endStarting_eq, reach_sys]
  case scan =>
    intro s hm
    dsimp only
    rw [endScan_store]
    refine ⟨by rw [endScan_sys hm], rfl, rfl, fun l => mem_lost, endScan_kept, endScan_captured hm,
      fun l c hw => scanStore_won hw, fun c hc hw => scanStore_cond (scannedCond_loser hc hw) (by decide),
      fun l hl => scanStore_lost hl, fun l m hlm hl hm => scanStore_apart hlm hl hm,
      fun r hr hu hn => scanStore_free hr hu hn, ?_, fun c0 c1 c2 c3 h0 h1 h2 h3 => ?_⟩
    · rintro ⟨l, hl, hw⟩
      rw [scanned_cfg (endScan_store s), loadedImage_factory hl (mem_lost.2 hw), factoryImage_limited]
    · rw [scanned_cfg (endScan_store s), loadedImage_stored h0 h1 h2 h3]
  case derive =>
    intro s hm
    have hd := recordsDerived hm
    dsimp only at hd ⊢
    generalize deriveRecords s = t at hd ⊢
    obtain ⟨hsys, hlatch, hchild, hrear, hwindow, hchan, hfob, hcrash, hrest⟩ := hd
    refine ⟨hsys, hlatch, hchild, hrear, fun w => ?_, hchan, fun k => ?_, hcrash, hrest⟩
    · obtain ⟨hw, hp⟩ := hwindow w
      rw [← profileLost_iff, hw, hp]
      refine ⟨fun hl => ⟨derivedWindow_lost hl, derivedProfile_lost hl⟩, fun hl => ?_⟩
      have hl' := Bool.eq_false_iff.2 hl
      exact ⟨derivedWindow_whole hl', fun r n hr hn => derivedProfile_entry hl' hr hn⟩
    · obtain ⟨hk, hwritten⟩ := hfob k
      rw [← slotTaken_iff]
      refine ⟨fun he ht => hk.trans (if_pos (by rw [he, ht]; rfl)), fun hn => hk.trans (if_neg ?_), hwritten⟩
      rw [Bool.and_eq_true]
      rintro ⟨he, ht⟩
      exact hn.elim (fun k => by rw [he] at k; cases k) (fun k => k ht)
  case crash =>
    intro s hm
    have e : latchedUnlock s = _ := latchedUnlock_eq (by rw [hm]; decide)
    dsimp only
    have := startCrash_cases hm
    rw [e] at this
    exact this


end Sys2Proof.Machine
end

section
/-! Child lock requests and the rear window inhibit: CHILD_LOCK, CHILD_BUTTON, WINDOW_LOCK_BUTTON and REAR_INHIBIT (R59 to
R64). -/

namespace Sys2Proof.Machine

variable {s : State}

/-! ### Sides, intended states and toggles (R59) -/

theorem sidesOf_none {b : Byte} (h : 2 < b.toNat) : sidesOf b = none := by
  have h0 : b ≠ 0 := fun e => absurd (e ▸ h) (by decide)
  have h1 : b ≠ 1 := fun e => absurd (e ▸ h) (by decide)
  have h2 : b ≠ 2 := fun e => absurd (e ▸ h) (by decide)
  simp only [sidesOf, if_neg h0, if_neg h1, if_neg h2]

theorem intended_queued {c : Side} {e : Entry} (h : s.entry? (.child c) = some e) :
    s.intended c = childTarget e.dir := by
  simp only [State.intended, h]

theorem intended_running {c : Side} {d : Drive} (he : s.entry? (.child c) = none) (hd : s.drive? (.child c) = some d) :
    s.intended c = childTarget d.dir := by
  simp only [State.intended, he, hd]

theorem intended_idle {c : Side} (he : s.entry? (.child c) = none) (hd : s.drive? (.child c) = none) :
    s.intended c = (s.child.recs.get c).state := by
  simp only [State.intended, he, hd]

theorem allEngaged_iff {cs : List Side} :
    (cs.all fun c => s.intended c == .engaged) = true ↔ ∀ c ∈ cs, s.intended c = .engaged := by
  simp only [List.all_eq_true, beq_iff_eq]

theorem toggle_disengages {cs : List Side} (h : ∀ c ∈ cs, s.intended c = .engaged) : s.toggle cs = .childDisengage :=
  if_pos (allEngaged_iff.2 h)

theorem toggle_engages {cs : List Side} (h : ∃ c ∈ cs, s.intended c = .disengaged) : s.toggle cs = .childEngage := by
  obtain ⟨c, hc, hd⟩ := h
  refine if_neg fun ha => ?_
  have he := allEngaged_iff.1 ha c hc
  rw [hd] at he
  cases he

/-- The taking of a request moves neither the arbiter nor a child lock, so a toggle resolves as before it. -/
theorem atOwner_toggle (dt : Time) (p : Port) (cs : List Side) : (atOwner dt p s).toggle cs = s.toggle cs := by
  obtain ⟨c, x, y, -, -, -, -, h⟩ := atOwner_eq (s := s) dt p
  rw [h]
  rfl

/-! ### Child lock operations (R59 to R61) -/

/-- A child lock operation as the group it opens: class 3, with the pattern of its direction (R39, R61). -/
def childOp (source : Source) (port : Option Port) (cs : List Side) (act : Action) : Operation :=
  { source := source, port := port, cls := .occupant, action := act, members := cs.map .child
    pattern := if act = .childEngage then some 6 else some 7 }

theorem childOperation_crash (source : Source) (port : Option Port) (cs : List Side) (act : Action)
    (h : s.crash.latched = true) : childOperation source port cs act s = (s, .crashActive, 0) :=
  if_pos h

theorem childOperation_full (source : Source) (port : Option Port) (cs : List Side) (act : Action)
    (h : s.crash.latched = false) (hf : ¬ s.groups.entries.length < 6) :
    childOperation source port cs act s = (s, .busy, 0) :=
  (if_neg (by rw [h]; decide)).trans (if_pos (tableFull_iff.2 (Nat.le_of_not_lt hf)))

theorem childOperation_run (source : Source) (port : Option Port) (cs : List Side) (act : Action)
    (h : s.crash.latched = false) (hf : s.groups.entries.length < 6) :
    childOperation source port cs act s = runGroup (childOp source port cs act) s :=
  (if_neg (by rw [h]; decide)).trans (if_neg (mt tableFull_iff.1 (Nat.not_le_of_lt hf)))

/-! ### CHILD_LOCK (R59) -/

theorem exec_childLock (dt : Time) (p : Port) (l : List Byte) (s : State) :
    exec (.childLock dt p l) s = onRequest dt p 0x21 l childLockOwner s := rfl

theorem childLockOwner_taken {side action : Byte} {cs : List Side} {act : Action} (p : Port)
    (hs : sidesOf side = some cs)
    (ha : action = 0 ∧ act = .childEngage ∨ action = 1 ∧ act = .childDisengage ∨ action = 2 ∧ act = s.toggle cs) :
    childLockOwner p [side, action] s = groupReply (childOperation .bodyPort (some p) cs act s) := by
  obtain ⟨rfl, rfl⟩ | ⟨rfl, rfl⟩ | ⟨rfl, rfl⟩ := ha <;> simp only [childLockOwner, hs] <;> rfl

/-- A payload of another length, or with a byte above 02h, is refused. -/
theorem childLockOwner_bad (p : Port) (l : List Byte) (h : ∀ a b, l = [a, b] → 2 < a.toNat ∨ 2 < b.toNat) :
    childLockOwner p l s = refuseGroup .badArgument s := by
  unfold childLockOwner
  split
  next a b =>
    obtain ha | hb := h a b rfl
    · rw [sidesOf_none ha]
    · split
      next h0 => omega
      next h1 => omega
      next h2 => omega
      next => rfl
  next => rfl

/-! ### CHILD_BUTTON (R60) -/

theorem exec_childButtonPress (dt : Time) (b : Bool) (h : Awake s) : exec (.childButtonPress dt b) s =
    .next (refreshPark (if b then takeChildButton (advance dt s) else advance dt s)) :=
  onMaskedInput_awake dt 6 id (fun s => if b then takeChildButton s else s) h

/-- A refused press changes nothing (R60, R61). -/
theorem takeChildButton_eq (s : State) : takeChildButton s =
    if s.crash.latched = false ∧ s.groups.entries.length < 6 then
      (runGroup (childOp .childButton none Side.list (s.toggle Side.list)) s).1
    else s := by
  unfold takeChildButton
  by_cases hl : s.crash.latched = true
  · rw [childOperation_crash _ _ _ _ hl, if_neg fun h => absurd (hl.symm.trans h.1) (by decide)]
  · have hl' := Bool.eq_false_iff.2 hl
    by_cases hf : s.groups.entries.length < 6
    · rw [childOperation_run _ _ _ _ hl' hf, if_pos ⟨hl', hf⟩]
    · rw [childOperation_full _ _ _ _ hl' hf, if_neg fun h => hf h.2]

/-- Settles O28. -/
theorem childLocksRequested : Obligations.ChildLocksRequested := by
  refine ⟨?taken, ?bad, ?pressed, ?released, ⟨rfl, rfl, rfl, fun b => sidesOf_none⟩,
    fun cs s => ⟨toggle_disengages, toggle_engages⟩,
    fun c s => ⟨fun e => intended_queued, fun d => intended_running, intended_idle⟩⟩
  case taken =>
    intro dt p side action cs act s hr ha hs hact
    rw [exec_childLock, onRequest_admitted dt p 0x21 _ _ hr ha (by simp),
      childLockOwner_taken p hs (by rw [atOwner_toggle]; exact hact)]
    by_cases hl : s.crash.latched = true
    · rw [childOperation_crash _ _ _ _ (by rw [atOwner_crash]; exact hl), if_pos hl]
      rfl
    · have hl' : (atOwner dt p s).crash.latched = false := by rw [atOwner_crash]; exact Bool.eq_false_iff.2 hl
      rw [if_neg hl]
      by_cases hf : s.groups.entries.length < 6
      · rw [childOperation_run _ _ _ _ hl' (by rw [atOwner_groups]; exact hf), if_pos hf]
        rfl
      · rw [childOperation_full _ _ _ _ hl' (by rw [atOwner_groups]; exact hf), if_neg hf]
        rfl
  case bad =>
    intro dt p l s hr ha hl h
    rw [exec_childLock, onRequest_admitted dt p 0x21 _ _ hr ha hl, childLockOwner_bad p l h]
    rfl
  case pressed =>
    intro dt s h
    rw [exec_childButtonPress dt true h, if_pos rfl, takeChildButton_eq]
    rfl
  case released =>
    intro dt s h
    rw [exec_childButtonPress dt false h]
    rfl

/-! ### The global rear inhibit flag (R62) -/

theorem setRearInhibit_same {v : Bool} (h : s.child.rearInhibit = v) : setRearInhibit v s = s := if_pos h

theorem setRearInhibit_changed {v : Bool} (h : s.child.rearInhibit ≠ v) : setRearInhibit v s =
    evalInhibits (writeStateByte 2 (boolByte v) (offer .childChanged (s.withChild { s.child with rearInhibit := v }))) :=
  if_neg h

theorem exec_windowLockButtonPress (dt : Time) (b : Bool) (h : Awake s) : exec (.windowLockButtonPress dt b) s =
    .next (refreshPark (if b then setRearInhibit (!s.child.rearInhibit) (advance dt s) else advance dt s)) :=
  onMaskedInput_awake dt 7 id (fun s => if b then setRearInhibit (!s.child.rearInhibit) s else s) h

theorem boolOf_boolByte (v : Bool) : boolOf (boolByte v) = some v := by cases v <;> rfl

theorem rearInhibitOwner_boolByte (p : Port) (v : Bool) (s : State) :
    rearInhibitOwner p [boolByte v] s = (setRearInhibit v s, Reply.of .ok) := by
  simp only [rearInhibitOwner, boolOf_boolByte]

theorem exec_rearInhibit (dt : Time) (p : Port) (v : Bool) (hr : Receiving s p) (ha : Admitted s p 2) :
    exec (.rearInhibit dt p [boolByte v]) s =
      .next (answered p 0x22 (Reply.of .ok) (setRearInhibit v (atOwner dt p s))) := by
  show onRequest dt p 0x22 [boolByte v] rearInhibitOwner s = _
  rw [onRequest_admitted dt p 0x22 _ _ hr ha (by simp), rearInhibitOwner_boolByte]

/-! ### The effective rear inhibit and the windows (R63, R64) -/

theorem evalInhibit_same {c : Side} (h : s.child.effective.get c = s.inhibitOf c) : evalInhibit c s = s := if_pos h

theorem evalInhibit_changed {c : Side} (h : s.child.effective.get c ≠ s.inhibitOf c) : evalInhibit c s =
    takeInhibit c (s.inhibitOf c)
      (s.withChild { s.child with effective := s.child.effective.set c (s.inhibitOf c) }) := if_neg h

/-- A change to ACTIVE leaves a window that its local switch does not move. -/
theorem takeInhibit_elsewhere (c : Side) (h : (s.windows.get (sideWin c)).source ≠ some .switchLocal) :
    takeInhibit c true s = s := if_neg h

/-- A change to ACTIVE stops the movement of the local switch (R64). -/
theorem takeInhibit_stops (c : Side) (h : (s.windows.get (sideWin c)).source = some .switchLocal) :
    takeInhibit c true s = (applyStop (sideWin c) .access
      (if (s.windows.get (sideWin c)).mode = some .manual then .released else .stopRequest) s).1 := if_pos h

theorem takeInhibit_stops_manual (c : Side) (h : (s.windows.get (sideWin c)).source = some .switchLocal)
    (hm : (s.windows.get (sideWin c)).mode = some .manual) :
    takeInhibit c true s = (applyStop (sideWin c) .access .released s).1 := by
  rw [takeInhibit_stops c h, if_pos hm]

theorem takeInhibit_stops_auto (c : Side) (h : (s.windows.get (sideWin c)).source = some .switchLocal)
    (hm : (s.windows.get (sideWin c)).mode ≠ some .manual) :
    takeInhibit c true s = (applyStop (sideWin c) .access .stopRequest s).1 := by
  rw [takeInhibit_stops c h, if_neg hm]

/-- A change to INACTIVE sets the local channel waiting unless it reads NEUTRAL (R64). -/
theorem takeInhibit_waits (c : Side) (h : (s.chans.get (sideChan c)).position ≠ .neutral) :
    takeInhibit c false s = s.modChan (sideChan c) fun r => { r with waiting := true } := if_pos h

theorem takeInhibit_neutral (c : Side) (h : (s.chans.get (sideChan c)).position = .neutral) :
    takeInhibit c false s = s := if_neg (not_not.2 h)

/-- Settles O29. -/
theorem rearInhibitSet : Obligations.RearInhibitSet := by
  refine ⟨?toggled, ?changed, ?repeated, ?released, fun s => rfl, fun c s => ⟨evalInhibit_same, evalInhibit_changed⟩,
    ?handed⟩
  case toggled =>
    intro dt s h
    rw [exec_windowLockButtonPress dt true h, if_pos rfl,
      setRearInhibit_changed (by rw [advance_child]; exact (Bool.not_ne_self _).symm)]
    rfl
  case changed =>
    intro dt p v s hr ha h
    rw [exec_rearInhibit dt p v hr ha, setRearInhibit_changed (by rw [atOwner_child]; exact h), atOwner_child]
  case repeated =>
    intro dt p v s hr ha h
    rw [exec_rearInhibit dt p v hr ha, setRearInhibit_same (by rw [atOwner_child]; exact h)]
  case released =>
    intro dt s h
    rw [exec_windowLockButtonPress dt false h]
    rfl
  case handed =>
    intro c s
    exact ⟨takeInhibit_elsewhere c, takeInhibit_stops_manual c, takeInhibit_stops_auto c, takeInhibit_waits c,
      takeInhibit_neutral c⟩

end Sys2Proof.Machine
end

section
/-! Hall edges: the position, the pinch computer, and what ends a run at an edge (R68, R69, R78, R94, R95, R102,
R104). -/

namespace Sys2Proof.Machine

variable {s : State}

/-! ### The edge counted (R68, R69) -/

theorem exec_hallEdge (dt : Time) (w : Win) (e : HallSense) (h : s.sys.inReset = false) : exec (.hallEdge dt w e) s =
    .next (refreshPark (if s.sys.mode = .park then advance dt s else takeEdge w e (advance dt s))) :=
  onReport_awake dt (fun s => if s.sys.mode = .park then s else takeEdge w e s) h

theorem exec_hallEdge_run (dt : Time) (w : Win) (e : HallSense) (h : Awake s) :
    exec (.hallEdge dt w e) s = .next (refreshPark (takeEdge w e (advance dt s))) := by
  rw [exec_hallEdge dt w e h.1, if_neg (by rw [h.2]; decide)]

/-- With the bridge not in DRIVE an edge moves the position and an active reversal record alone. -/
theorem takeEdge_idle {w : Win} (e : HallSense) (h : ∀ d, s.stages.get (.window w) ≠ .drive d) :
    takeEdge w e s = passPulse w e (s.modWindow w fun r => { r with p := r.countEdge e }) := by
  unfold takeEdge
  dsimp only
  split
  · rename_i d hd
    exact absurd hd (h d)
  · rfl

/-- The state once an edge in DRIVE is counted and handed to the pinch computer, before what it ends the run with. -/
def edgeHanded (w : Win) (d : Dir) (e : HallSense) (moved : Bool) (s : State) : State :=
  handEdge w e moved (s.modWindow w fun r => r.driveEdge d e s.now)

theorem takeEdge_drive {w : Win} {d : Dir} (e : HallSense) (h : s.stages.get (.window w) = .drive d) :
    takeEdge w e s = driveEdge w d e ((s.windows.get w).countEdge e != (s.windows.get w).p)
      (passPulse w e (s.modWindow w fun r => { r with p := (s.windows.get w).countEdge e })) := by
  have hd : (passPulse w e (s.modWindow w fun r =>
      { r with p := (s.windows.get w).countEdge e })).stages.windows.get w = .drive d := h
  simp only [takeEdge, hd]

/-- A pulse in the direction of the drive clears the wrong-direction count, any other counts in it (R69). -/
theorem WindowRec.driveEdge_eq (r : WindowRec) (d : Dir) (e : HallSense) (t : Time) : r.driveEdge d e t =
    { r with edges := r.edges + 1, lastEdge := t
             wrong := if (d = .up ∧ e = .closing) ∨ (d ≠ .up ∧ e = .opening) then 0 else r.wrong + 1 } := by
  unfold WindowRec.driveEdge
  by_cases hd : d = .up <;> cases e <;> simp [hd]

/-! ### What an edge in DRIVE leads to (R94; log 10) -/

section
variable {w : Win} {d : Dir} {e : HallSense} {m : Bool}

theorem driveEdge_goesOn (hp : (edgeHanded w d e m s).pinchConfirmed w = false)
    (hs : (edgeHanded w d e m s).edgeStop w d e = none) : driveEdge w d e m s = edgeHanded w d e m s := by
  unfold edgeHanded at hp hs ⊢
  simp only [driveEdge, hp, hs]

theorem driveEdge_pinch (hp : (edgeHanded w d e m s).pinchConfirmed w = true)
    (hs : (edgeHanded w d e m s).edgeStop w d e = none) :
    driveEdge w d e m s = takePinch w (edgeHanded w d e m s) := by
  unfold edgeHanded at hp hs ⊢
  simp only [driveEdge, hp, hs]

theorem driveEdge_stop {c : StopCause} (hp : (edgeHanded w d e m s).pinchConfirmed w = false)
    (hs : (edgeHanded w d e m s).edgeStop w d e = some c) :
    driveEdge w d e m s = stopRun w c (edgeHanded w d e m s) := by
  unfold edgeHanded at hp hs ⊢
  simp only [driveEdge, hp, hs]

/-- A PINCH and another end at one edge: a free value takes either first. -/
theorem driveEdge_tie {c : StopCause} (hp : (edgeHanded w d e m s).pinchConfirmed w = true)
    (hs : (edgeHanded w d e m s).edgeStop w d e = some c) :
    driveEdge w d e m s =
      if Config.pinchTakenFirst (edgeHanded w d e m s).ties then
        takePinch w ((edgeHanded w d e m s).withTies ((edgeHanded w d e m s).ties + 1))
      else stopRun w c ((edgeHanded w d e m s).withTies ((edgeHanded w d e m s).ties + 1)) := by
  unfold edgeHanded at hp hs ⊢
  simp only [driveEdge, hp, hs]

end

/-! ### What ends a run at an edge (R69, R78, R104; log 26) -/

section
variable {w : Win} (d : Dir) (e : HallSense)

theorem edgeStop_hallFault (h : 8 ≤ (s.windows.get w).wrong) : s.edgeStop w d e = some .hallFault := if_pos h

theorem edgeStop_reversal (h : (s.windows.get w).wrong < 8) (hr : (s.pinch.get w).rev.active = true) :
    s.edgeStop w d e = if s.reversalEnd w e = true then some .pinch else none := by
  unfold State.edgeStop
  rw [if_neg (Nat.not_le_of_lt h), if_pos hr]

theorem edgeStop_endPoint (h : (s.windows.get w).wrong < 8) (hr : (s.pinch.get w).rev.active = false) :
    s.edgeStop w d e = (s.windows.get w).endPoint d := by
  unfold State.edgeStop
  rw [if_neg (Nat.not_le_of_lt h), if_neg (by simp [hr])]

end

section
variable {r : WindowRec} {d : Dir}

/-- The soft stop of a downward run, 8 steps short of Pmax (R78). -/
def WindowRec.softStop (r : WindowRec) : Option StopCause :=
  if r.pmax.getD 2047 ≤ r.p + 8 then some .bottom else none

theorem endPoint_unlearned (h : r.norm ≠ .learned) : r.endPoint d = none := if_pos h

theorem endPoint_up_target {t : Nat} (h : r.norm = .learned) (hm : r.mode = some (.target t)) :
    r.endPoint .up = if r.p ≤ t then some .target else none := by
  simp only [WindowRec.endPoint, h, hm, ne_eq, not_true_eq_false, if_false]

theorem endPoint_up_other (h : r.norm = .learned) (hm : ∀ t, r.mode ≠ some (.target t)) : r.endPoint .up = none := by
  unfold WindowRec.endPoint
  rw [if_neg (not_not.2 h)]
  cases hk : r.mode with
  | none => rfl
  | some m =>
    cases m with
    | target t => exact absurd hk (hm t)
    | _ => rfl

/-- A downward target ends the run where it lies up to Pmax - 8; beyond it, and short of it, the soft stop does. -/
theorem endPoint_down_target {t : Nat} (h : r.norm = .learned) (hd : d ≠ .up) (hm : r.mode = some (.target t)) :
    r.endPoint d = if t + 8 ≤ r.pmax.getD 2047 ∧ t ≤ r.p then some .target else r.softStop := by
  cases d with
  | up => exact absurd rfl hd
  | _ => simp only [WindowRec.endPoint, h, hm, ne_eq, not_true_eq_false, if_false]; rfl

theorem endPoint_down_other (h : r.norm = .learned) (hd : d ≠ .up) (hm : ∀ t, r.mode ≠ some (.target t)) :
    r.endPoint d = r.softStop := by
  unfold WindowRec.endPoint
  rw [if_neg (not_not.2 h)]
  split
  · exact absurd rfl hd
  · exact absurd rfl hd
  · rename_i t _ ht
    exact absurd ht (hm t)
  · rfl

end

/-- Settles O30. -/
theorem hallEdgesTaken : Obligations.HallEdgesTaken := by
  refine ⟨?idle, ?park, ?drive, ?ends⟩
  case idle =>
    intro dt w e s h hs
    rw [exec_hallEdge_run dt w e h, takeEdge_idle e (by exact hs)]
    cases e <;> rfl
  case park =>
    intro dt w e s h hm
    rw [exec_hallEdge dt w e h, if_pos hm]
  case drive =>
    intro dt w e d s h hs
    dsimp only
    rw [exec_hallEdge_run dt w e h, takeEdge_drive e (by exact hs), advance_windows]
    generalize hx : passPulse w e ((advance dt s).modWindow w fun r =>
      { r with p := (s.windows.get w).countEdge e }) = x
    have hnow : x.now = s.now + dt := by rw [← hx]; rfl
    have hu : edgeHanded w d e ((s.windows.get w).countEdge e != (s.windows.get w).p) x =
        handEdge w e ((s.windows.get w).countEdge e != (s.windows.get w).p) (x.modWindow w fun r =>
          { r with edges := r.edges + 1, lastEdge := s.now + dt
                   wrong := if (d = .up ∧ e = .closing) ∨ (d ≠ .up ∧ e = .opening) then 0 else r.wrong + 1 }) := by
      simp only [edgeHanded, WindowRec.driveEdge_eq, hnow]
    rw [← hu]
    refine ⟨fun hp he => by rw [driveEdge_goesOn hp he], fun hp he => by rw [driveEdge_pinch hp he],
      fun c hp he => by rw [driveEdge_stop hp he], fun c hp he => ⟨_, rfl, ?_⟩⟩
    rw [driveEdge_tie hp he]
    split
    · exact .inl rfl
    · exact .inr rfl
  case ends =>
    intro w d e s
    refine ⟨edgeStop_hallFault d e, edgeStop_reversal d e, fun hw hr => ?_⟩
    rw [edgeStop_endPoint d e hw hr]
    refine ⟨endPoint_unlearned, ?_, ?_, fun t hn hd hm => ?_, endPoint_down_other⟩
    · rintro t hn rfl hm
      exact endPoint_up_target hn hm
    · rintro hn rfl hm
      exact endPoint_up_other hn hm
    · rw [endPoint_down_target hn hd hm]
      exact ⟨fun ht hp => if_pos ⟨ht, hp⟩, fun k => if_neg (by omega)⟩

end Sys2Proof.Machine
end

section
/-! Stops, direction changes and reversals of a running window (R76, R81, R83, R104 to R109). -/

namespace Sys2Proof.Machine

variable {s : State}

/-! ### A running window brakes (R76, R81) -/

section
variable (w : Win) (d : WDir) (m : Option WMode) (x : Option Source) (s : State)

@[simp] theorem tellDrive_windows : (tellDrive w d m x s).windows = s.windows := rfl
@[simp] theorem tellDrive_stages : (tellDrive w d m x s).stages = s.stages := rfl
@[simp] theorem tellDrive_pinch : (tellDrive w d m x s).pinch = s.pinch := rfl
@[simp] theorem tellDrive_events : (tellDrive w d m x s).events = s.events := rfl

/-- A running drive of the window takes the new direction, mode and source, and nothing else changes (R15). -/
theorem tellDrive_eq : tellDrive w d m x s = s.withArb { s.arb with
    running := s.arb.running.map fun y =>
      if y.act = .window w then { y with dir := d.dir, mode := m, source := x.getD y.source } else y } := by
  simp only [tellDrive, beq_iff_eq]

theorem tellDrive_arb : (tellDrive w d m x s).arb = { s.arb with
    running := s.arb.running.map fun y =>
      if y.act = .window w then { y with dir := d.dir, mode := m, source := x.getD y.source } else y } := by
  rw [tellDrive_eq, State.withArb_arb]

end

theorem modPinch_get (w : Win) (f : PinchRec → PinchRec) (s : State) :
    (s.modPinch w f).pinch.get w = f (s.pinch.get w) := Wins.get_set_self _ _ _

theorem modPinch_get_ne {w v : Win} (f : PinchRec → PinchRec) (s : State) (h : v ≠ w) :
    (s.modPinch w f).pinch.get v = s.pinch.get v := Wins.get_set_ne _ _ h

/-- The state of a stopping window before its bridge brakes: a TOP stop learns (R81, R110). -/
def stopLearned (w : Win) (c : StopCause) (s : State) : State := if c = .top then learnAtTop w s else s

theorem stopLearned_of_ne {c : StopCause} (w : Win) (h : c ≠ .top) : stopLearned w c s = s := if_neg h

theorem stopLearned_keeps (w : Win) (c : StopCause) (s : State) : (stopLearned w c s).now = s.now
    ∧ (stopLearned w c s).windows = s.windows ∧ (stopLearned w c s).stages = s.stages
    ∧ (stopLearned w c s).pinch = s.pinch ∧ (stopLearned w c s).arb = s.arb := by
  unfold stopLearned
  split
  · exact learnAtTop_keeps w s
  · exact ⟨rfl, rfl, rfl, rfl, rfl⟩

theorem modWindow_setStage (w : Win) (f : WindowRec → WindowRec) (a : Actuator) (x : Stage) (s : State) :
    (s.setStage a x).modWindow w f = (s.modWindow w f).setStage a x := rfl

/-- The run computation ends, the bridge brakes for 40 ms, and the window's record moves by `f`. -/
def brakeRun (w : Win) (f : WindowRec → WindowRec) (s : State) : State :=
  ((endRun w s).modWindow w fun r => f { r with brakeDue := some (s.now + msec 40) }).setStage (.window w) .brake

theorem brakeWindow_modWindow {w : Win} (f : WindowRec → WindowRec) (h : s.stages.get (.window w) ≠ .brake) :
    (brakeWindow w (endRun w s)).modWindow w f = brakeRun w f s := by
  rw [brakeWindow_of_ne w (endRun w s) h, modWindow_setStage, modWindow_modWindow]
  rfl

/-- The window's record in a stop with a cause (R81). -/
def WindowRec.stopping (c : StopCause) (r : WindowRec) : WindowRec :=
  { r with run := if r.run = .reversing then .reversing else .brake, pending := some c, runDue := none
           noPulseArmed := false, normPhase := if c = .hallFault then r.normPhase else .none
           pendingFault := if c = .hallFault then .hallFault else r.pendingFault }

theorem stopRun_eq {w : Win} (c : StopCause) (h : s.stages.get (.window w) ≠ .brake) :
    stopRun w c s = brakeRun w (WindowRec.stopping c) (stopLearned w c s) := by
  obtain ⟨-, -, hstages, -, -⟩ := stopLearned_keeps w c s
  exact brakeWindow_modWindow (s := stopLearned w c s) (WindowRec.stopping c) (by rw [hstages]; exact h)

/-- The window's record in a change of direction (R76). -/
def WindowRec.turning (d : WDir) (r : WindowRec) : WindowRec :=
  { r with run := if r.run = .reversing then .reversing else .brake, nextDir := some d, runDue := none
           noPulseArmed := false }

theorem brakeToChange_eq {w : Win} (d : WDir) (h : s.stages.get (.window w) ≠ .brake) :
    brakeToChange w d s = brakeRun w (WindowRec.turning d) s := brakeWindow_modWindow _ h

@[simp] theorem brakeRun_stages (w : Win) (f : WindowRec → WindowRec) (s : State) :
    (brakeRun w f s).stages = s.stages.set (.window w) .brake := rfl
@[simp] theorem brakeRun_arb (w : Win) (f : WindowRec → WindowRec) (s : State) : (brakeRun w f s).arb = s.arb := rfl
@[simp] theorem brakeRun_events (w : Win) (f : WindowRec → WindowRec) (s : State) :
    (brakeRun w f s).events = s.events := rfl
@[simp] theorem brakeRun_profiles (w : Win) (f : WindowRec → WindowRec) (s : State) :
    (brakeRun w f s).profiles = s.profiles := rfl
@[simp] theorem brakeRun_store (w : Win) (f : WindowRec → WindowRec) (s : State) :
    (brakeRun w f s).store = s.store := rfl

theorem brakeRun_window (w : Win) (f : WindowRec → WindowRec) (s : State) :
    (brakeRun w f s).windows.get w = f { s.windows.get w with brakeDue := some (s.now + msec 40) } := by
  rw [brakeRun, setStage_windows, modWindow_get, endRun_windows]

theorem brakeRun_window_ne {w v : Win} (f : WindowRec → WindowRec) (s : State) (h : v ≠ w) :
    (brakeRun w f s).windows.get v = s.windows.get v := by
  rw [brakeRun, setStage_windows, modWindow_get_ne _ _ h, endRun_windows]

theorem brakeRun_pinch (w : Win) (f : WindowRec → WindowRec) (s : State) :
    (brakeRun w f s).pinch.get w = { s.pinch.get w with run := none } :=
  Wins.get_set_self _ _ _

theorem brakeRun_pinch_ne {w v : Win} (f : WindowRec → WindowRec) (s : State) (h : v ≠ w) :
    (brakeRun w f s).pinch.get v = s.pinch.get v := Wins.get_set_ne _ _ h

/-! ### PINCH (R83, R104, R109) -/

/-- The window's record at a PINCH that starts a reversal (R104). -/
def WindowRec.pinched (r : WindowRec) : WindowRec :=
  { r with lastPinch := some r.p, reversals := min 3 (r.reversals + 1)
           restricted := r.restricted || min 3 (r.reversals + 1) == 3, run := .reversing, normPhase := .none }

/-- The reversal record at a PINCH of the run computation `q` (R104, R105). -/
def reversalOf (q : RunRec) (r : WindowRec) : RevRec :=
  { active := true, origin := r.p, dist := q.dist, absolute := q.absolute
    endPos := if q.absolute then min (r.p + q.dist) (r.pmax.getD 2047) else 0
    rel := 0, outcome := .none, cause := .none }

theorem takePinch_restricted {w : Win} {q : RunRec} (h : (s.pinch.get w).run = some q) (hr : q.restricted = true) :
    takePinch w s = stopRun w .pinch (s.modWindow w fun x => { x with lastPinch := some x.p }) := by
  have hany : ((s.pinch.get w).run.any (·.restricted)) = true := by rw [h]; exact hr
  exact if_pos hany

/-- The protection state of a window that reverses, before its bridge brakes. -/
def pinchStarted (w : Win) (q : RunRec) (s : State) : State :=
  (captureAll .pinchReversal (s.modWindow w WindowRec.pinched)).modPinch w fun c =>
    { c with rev := reversalOf q (s.windows.get w) }

theorem pinchStarted_window (w : Win) (q : RunRec) (s : State) :
    (pinchStarted w q s).windows.get w = (s.windows.get w).pinched := modWindow_get w WindowRec.pinched s

theorem pinchStarted_pinch (w : Win) (q : RunRec) (s : State) :
    (pinchStarted w q s).pinch.get w = { s.pinch.get w with rev := reversalOf q (s.windows.get w) } :=
  modPinch_get w _ _

theorem pinchStarted_ne {w v : Win} (q : RunRec) (s : State) (h : v ≠ w) :
    (pinchStarted w q s).windows.get v = s.windows.get v ∧ (pinchStarted w q s).pinch.get v = s.pinch.get v :=
  ⟨modWindow_get_ne WindowRec.pinched s h, modPinch_get_ne _ _ h⟩

/-- Changes of different blocks commute. -/
theorem modWindow_modPinch_captureAll (w : Win) (e : Ev) (f : PinchRec → PinchRec) (g : WindowRec → WindowRec)
    (s : State) : ((captureAll e s).modPinch w f).modWindow w g = (captureAll e (s.modWindow w g)).modPinch w f := rfl

theorem startReversal_run {w : Win} {q : RunRec} (h : (s.pinch.get w).run = some q) (hm : s.sys.mode = .run) :
    (startReversal w (s.modWindow w fun r => { r with lastPinch := some r.p })).modWindow w (fun r =>
      { r with run := .reversing, normPhase := .none }) = pinchStarted w q s := by
  have hq : ((s.modWindow w fun r => { r with lastPinch := some r.p }).pinch.get w).run = some q := h
  unfold startReversal
  dsimp only
  rw [hq, modWindow_modWindow, offer_run (by exact hm), modWindow_get, modWindow_modPinch_captureAll,
    modWindow_modWindow]
  rfl

theorem takePinch_reverses {w : Win} {q : RunRec} (h : (s.pinch.get w).run = some q) (hr : q.restricted = false)
    (hm : s.sys.mode = .run) (hs : s.stages.get (.window w) ≠ .brake) : takePinch w s =
      tellDrive w .down (s.windows.get w).mode (s.windows.get w).source
        ((brakeRun w (WindowRec.turning .down) (pinchStarted w q s)).setComfort w false) := by
  have hany : ¬ ((s.pinch.get w).run.any (·.restricted)) = true := by rw [h]; simp [hr]
  unfold takePinch
  dsimp only
  rw [if_neg hany, startReversal_run h hm, brakeToChange_eq .down (by exact hs), pinchStarted_window]
  rfl

theorem tellDrive_running (w : Win) (d : WDir) (m : Option WMode) (x : Option Source) {y : Drive}
    (hy : y ∈ s.arb.running) (ha : y.act = .window w) :
    ∃ z ∈ (tellDrive w d m x s).arb.running, z.act = .window w ∧ z.dir = d.dir :=
  ⟨_, List.mem_map.2 ⟨y, hy, if_pos (by simp [ha])⟩, ha, rfl⟩

theorem pinched_restricted (r : WindowRec) : r.pinched.restricted = true ↔ r.restricted = true ∨ 2 ≤ r.reversals := by
  simp only [WindowRec.pinched, Bool.or_eq_true, beq_iff_eq]
  exact or_congr Iff.rfl (by omega)

/-! ### The reversal record (R104 to R107) -/

/-- A pulse leaves a record that is idle or absolute. -/
theorem passPulse_unmoved {w : Win} (e : HallSense)
    (h : (s.pinch.get w).rev.active = false ∨ (s.pinch.get w).rev.absolute = true) : passPulse w e s = s := by
  have hn : ¬ ((s.pinch.get w).rev.active = true ∧ (s.pinch.get w).rev.absolute = false) := by
    rintro ⟨ha, hb⟩
    rcases h with k | k
    · rw [k] at ha; cases ha
    · rw [k] at hb; cases hb
  unfold passPulse State.modPinch
  dsimp only
  rw [if_neg hn, Wins.set_eq_self rfl]
  rfl

/-- An active relative record counts the pulses of its direction (R104, R106). -/
theorem passPulse_relative {w : Win} (e : HallSense) (ha : (s.pinch.get w).rev.active = true)
    (hb : (s.pinch.get w).rev.absolute = false) : ((passPulse w e s).pinch.get w).rev = { (s.pinch.get w).rev with
      rel := (s.pinch.get w).rev.rel + (if e = .opening then 1 else -1) } := by
  rw [passPulse, modPinch_get, if_pos ⟨ha, hb⟩]
  cases e <;> rfl

theorem reversalEnd_absolute {w : Win} (e : HallSense) (h : (s.pinch.get w).rev.absolute = true) :
    s.reversalEnd w e = true ↔ e = .opening ∧ (s.pinch.get w).rev.endPos ≤ (s.windows.get w).p := by
  simp only [State.reversalEnd, h, if_true, Bool.and_eq_true, beq_iff_eq, decide_eq_true_eq]

theorem reversalEnd_relative {w : Win} (e : HallSense) (h : (s.pinch.get w).rev.absolute = false) :
    s.reversalEnd w e = true ↔ ((s.pinch.get w).rev.dist : Int) ≤ (s.pinch.get w).rev.rel := by
  simp only [State.reversalEnd, h, Bool.false_eq_true, if_false, decide_eq_true_eq]

/-! ### The end of a stop (R83, R107, R109) -/

/-- The state of a window that stops, its channels held where the cause is PINCH, before a reversal ends. -/
theorem settleStopped_held (w : Win) (c : StopCause) (s : State) : ∃ u, settleStopped w c s = finishReversal w c u
    ∧ u.pinch = s.pinch ∧ (u.windows.get w).lastStop = c
    ∧ (c ≠ .pinch → u.chans = s.chans)
    ∧ ∀ x : Chan, u.chans.get x = if c = .pinch ∧ chanWin x = w ∧ (s.chans.get x).position ≠ .neutral then
        { s.chans.get x with waiting := true } else s.chans.get x := by
  obtain ⟨hpinch, -, -, -, -, hchans, -, -⟩ := stoppedState_keeps w c s
  have hlast : ((stoppedState w c s).windows.get w).lastStop = c := by
    by_cases h : s.entry? (.window w) = none
    · rw [(stoppedState_stopped h).2]
    · rw [(stoppedState_queued h).2]
  have hrec := Records.offer .windowStopped (stoppedState w c s)
  obtain ⟨cs, hcs, hk⟩ := holdAfterPinch_eq w c (offer .windowStopped (stoppedState w c s))
  rw [hrec.chans, hchans] at hk
  refine ⟨_, settleStopped_eq w c s, ?_, ?_, fun hc => ?_, fun x => ?_⟩
  · rw [hcs, State.withChans_pinch, hrec.pinch, hpinch]
  · rw [hcs, State.withChans_windows, hrec.windows, hlast]
  · rw [holdAfterPinch, if_neg hc, hrec.chans, hchans]
  · rw [hcs, State.withChans_chans, hk x]

theorem settleStopped_lastStop (w : Win) (c : StopCause) (s : State) :
    ((settleStopped w c s).windows.get w).lastStop = c := by
  obtain ⟨u, hu, -, hlast, -, -⟩ := settleStopped_held w c s
  rw [hu]
  cases ha : (u.pinch.get w).rev.active with
  | false => rw [finishReversal_idle ha, hlast]
  | true =>
    obtain ⟨cs, e, -⟩ := finishReversal_active c ha
    rw [e]
    exact hlast

theorem settleStopped_rev {w : Win} (c : StopCause) (h : (s.pinch.get w).rev.active = true) :
    ((settleStopped w c s).pinch.get w).rev = (s.pinch.get w).rev.finish c := by
  obtain ⟨u, hu, hpinch, -, -, -⟩ := settleStopped_held w c s
  obtain ⟨cs, e, -⟩ := finishReversal_active c (s := u) (by rw [hpinch]; exact h)
  rw [hu, e, State.withChans_pinch, modPinch_get, hpinch]

theorem settleStopped_pinch_idle {w : Win} (c : StopCause) (h : (s.pinch.get w).rev.active = false) :
    (settleStopped w c s).pinch = s.pinch := by
  obtain ⟨u, hu, hpinch, -, -, -⟩ := settleStopped_held w c s
  rw [hu, finishReversal_idle (by rw [hpinch]; exact h), hpinch]

theorem settleStopped_chans_idle {w : Win} {c : StopCause} (h : (s.pinch.get w).rev.active = false) (hc : c ≠ .pinch) :
    (settleStopped w c s).chans = s.chans := by
  obtain ⟨u, hu, hpinch, -, hchans, -⟩ := settleStopped_held w c s
  rw [hu, finishReversal_idle (by rw [hpinch]; exact h), hchans hc]

/-- The stop of a reversal, and every stop with cause PINCH, holds the window's channels. -/
theorem settleStopped_chans {w : Win} {c : StopCause} (h : (s.pinch.get w).rev.active = true ∨ c = .pinch) (x : Chan) :
    (settleStopped w c s).chans.get x = if chanWin x = w ∧ (s.chans.get x).position ≠ .neutral then
      { s.chans.get x with waiting := true } else s.chans.get x := by
  obtain ⟨u, hu, hpinch, -, -, hheld⟩ := settleStopped_held w c s
  rw [hu]
  cases ha : (u.pinch.get w).rev.active with
  | false =>
    have hc : c = .pinch := h.resolve_left (by rw [← hpinch, ha]; decide)
    rw [finishReversal_idle ha, hheld x]
    simp only [hc, true_and]
  | true =>
    obtain ⟨cs, e, hk⟩ := finishReversal_active c ha
    rw [e, State.withChans_chans, hk x, hheld x]
    by_cases hx : chanWin x = w ∧ (s.chans.get x).position ≠ .neutral <;> by_cases hc : c = .pinch <;> simp [hx, hc]

/-- Settles O32. -/
theorem reversalsRecorded : Obligations.ReversalsRecorded := by
  refine ⟨?reverses, fun w r s => takePinch_restricted, ?stops, ?pulse,
    fun w e s => ⟨reversalEnd_absolute e, reversalEnd_relative e⟩,
    fun w d e s hr hw => edgeStop_reversal d e hw hr, ?settled⟩
  case reverses =>
    intro w r s hm hq hr hs
    dsimp only
    rw [takePinch_reverses hq hr hm (by rw [hs]; decide)]
    have hwin : ((brakeRun w (WindowRec.turning .down) (pinchStarted w r s)).windows.get w) =
        WindowRec.turning .down { (s.windows.get w).pinched with brakeDue := some (s.now + msec 40) } := by
      rw [brakeRun_window, pinchStarted_window]; rfl
    have hpin : ((brakeRun w (WindowRec.turning .down) (pinchStarted w r s)).pinch.get w) =
        { run := none, rev := reversalOf r (s.windows.get w) } := by
      rw [brakeRun_pinch, pinchStarted_pinch]
    simp only [tellDrive_windows, setComfort_windows, hwin]
    refine ⟨rfl, rfl, rfl, rfl, rfl, pinched_restricted _, rfl, rfl, rfl, Wins.get_set_self _ _ _, ?_, ?_, fun p => ?_,
      fun d hd ha => tellDrive_running w .down _ _ hd ha, fun v hv => ⟨?_, ?_⟩⟩
    · exact congrArg PinchRec.run hpin
    · exact congrArg PinchRec.rev hpin
    · exact congrArg EventRec.captured (captureAll_get .pinchReversal (s.modWindow w WindowRec.pinched) p)
    · rw [brakeRun_window_ne _ _ hv, (pinchStarted_ne r s hv).1]
    · exact (brakeRun_pinch_ne (WindowRec.turning .down) _ hv).trans (pinchStarted_ne r s hv).2
  case stops =>
    intro w c s hc hs
    rw [stopRun_eq c hs, stopLearned_of_ne w hc]
    refine ⟨_, rfl, ?_⟩
    rw [brakeRun_window, brakeRun_pinch]
    exact ⟨rfl, rfl, rfl, brakeRun_stages w _ s, fun h => if_neg h, fun h => if_pos h, rfl, rfl, brakeRun_events w _ s⟩
  case pulse =>
    intro w e s
    exact ⟨_, rfl, passPulse_relative e, passPulse_unmoved e⟩
  case settled =>
    intro w c s
    exact ⟨fun h hc => (settleStopped_rev c h).trans (RevRec.finish_complete _ hc),
      fun h hp hb => (settleStopped_rev c h).trans (RevRec.finish_interrupted _ hp hb), settleStopped_pinch_idle c,
      settleStopped_chans, settleStopped_chans_idle, settleStopped_lastStop w c s⟩

end Sys2Proof.Machine
end

section
/-! The tests of a run and their results: the 150 ms test, stalls, the run timer, and the top and the bottom found (R67,
R69, R79 to R81, R87, R88, R103, R113). -/

namespace Sys2Proof.Machine

variable {s : State}

/-! ### The tests and their timers (R69, R79, R80) -/

theorem exec_noPulseTest {w : Win} (b : Bool) (h : (s.windows.get w).noPulseArmed = true) :
    exec (.noPulseTest w b) s =
      .next (refreshPark (judgeNoPulse w b (reach ((s.windows.get w).driveFrom + msec 150) s))) := by
  show onTimer (s.noPulseDue w) (judgeNoPulse w b) s = _
  rw [State.noPulseDue, if_pos h, onTimer_due]

theorem judgeNoPulse_silent {w : Win} (b : Bool) (h : (s.windows.get w).edges = 0) : judgeNoPulse w b s =
    (if b then takeStall w (s.modWindow w fun r => { r with noPulseArmed := false })
     else stopRun w .hallFault (s.modWindow w fun r => { r with noPulseArmed := false })) := if_pos h

theorem judgeNoPulse_counted {w : Win} (b : Bool) (h : 0 < (s.windows.get w).edges) :
    judgeNoPulse w b s = s.modWindow w fun r => { r with noPulseArmed := false } := if_neg (Nat.ne_of_gt h)

theorem exec_windowStall {w : Win} {d : Dir} (hs : s.stages.get (.window w) = .drive d)
    (he : 0 < (s.windows.get w).edges) : exec (.windowStall w) s = .next (refreshPark (takeStall w (reach
      (max ((s.windows.get w).driveFrom + msec 80) ((s.windows.get w).lastEdge + msec 30)) s))) := by
  have hd : s.stages.windows.get w = .drive d := hs
  show onTimer (s.stallDue w) (takeStall w) s = _
  simp only [State.stallDue, hd, if_pos he, onTimer_due]

theorem exec_runTimeout {w : Win} {d : Time} (h : (s.windows.get w).runDue = some d) :
    exec (.runTimeout w) s = .next (refreshPark (stopRun w .timeout (reach d s))) := by
  show onTimer (s.windows.get w).runDue (stopRun w .timeout) s = _
  rw [h, onTimer_due]

/-! ### A stall classified (R79, R103) -/

theorem stallIsPinch_eq (w : Win) (s : State) : s.stallIsPinch w =
    (s.pinch.get w).run.any fun x => !x.absolute || decide ((s.windows.get w).p ≤ x.pdetect) := by
  unfold State.stallIsPinch
  cases (s.pinch.get w).run <;> rfl

theorem takeStall_up {w : Win} (h : s.stages.get (.window w) = .drive .up) : takeStall w s =
    if (s.windows.get w).normPhase = .normUp then topFound w s
    else if (s.windows.get w).norm = .positionLost
        ∨ ((s.windows.get w).norm = .learned ∧ (s.windows.get w).p ≤ (s.windows.get w).sealDist + 24) then reachTop w s
    else if s.stallIsPinch w then takePinch w s
    else stopRun w .blocked s := by
  have hd : s.stages.windows.get w = .drive .up := h
  simp only [takeStall, hd]
  cases hn : (s.windows.get w).norm <;> simp

theorem takeStall_down {w : Win} (h : s.stages.get (.window w) = .drive .down) : takeStall w s =
    if (s.windows.get w).normPhase = .normDown then bottomFound w s
    else if (s.windows.get w).norm = .learned ∧ (s.windows.get w).p + 20 < (s.windows.get w).pmax.getD 2047 then
      stopRun w .blocked s
    else stopRun w .bottom s := by
  have hd : s.stages.windows.get w = .drive .down := h
  simp only [takeStall, hd]

/-! ### The top (R79, R87) -/

theorem changeNorm_same {w : Win} {v : Norm} (h : (s.windows.get w).norm = v) : changeNorm w v s = s := if_pos h

theorem changeNorm_changed {w : Win} {v : Norm} (h : (s.windows.get w).norm ≠ v) : changeNorm w v s =
    offer .normalizationChanged (s.modWindow w fun r => { r with norm := v }) := if_neg h

/-- The window's record at the top (R79). -/
def WindowRec.atTop (r : WindowRec) : WindowRec := { r with p := 0, reversals := 0, restricted := false }

theorem reachTop_known {w : Win} (h : (s.windows.get w).norm ≠ .positionLost) :
    reachTop w s = stopRun w .top (s.modWindow w WindowRec.atTop) := by
  have hn : ¬ ((s.modWindow w WindowRec.atTop).windows.get w).norm = .positionLost := by rw [modWindow_get]; exact h
  exact congrArg (stopRun w .top) (if_neg hn)

theorem reachTop_lost {w : Win} (h : (s.windows.get w).norm = .positionLost) :
    reachTop w s = stopRun w .top (offer .normalizationChanged
      ((s.modWindow w WindowRec.atTop).modWindow w fun r => { r with norm := .learned })) := by
  have hn : ((s.modWindow w WindowRec.atTop).windows.get w).norm = .positionLost := by rw [modWindow_get]; exact h
  rw [← changeNorm_changed (by rw [hn]; decide)]
  exact congrArg (stopRun w .top) (if_pos hn)

theorem topFound_eq {w : Win} (h : s.stages.get (.window w) ≠ .brake) : topFound w s =
    tellDrive w .down (s.windows.get w).mode (s.windows.get w).source
      (brakeRun w (WindowRec.turning .down) (s.modWindow w fun r => { r with p := 0, normPhase := .normDown })) := by
  unfold topFound
  dsimp only
  rw [modWindow_get, brakeToChange_eq .down (by exact h)]

/-! ### The rows of a profile (R113) -/

theorem padBytes_append_zeros (n k : Nat) (l : List Byte) : padBytes n (l ++ List.replicate k 0) = padBytes n l := by
  apply Vector.toList_inj.1
  show ((l ++ List.replicate k 0) ++ List.replicate n 0).take n = (l ++ List.replicate n 0).take n
  rw [List.append_assoc, List.replicate_append_replicate, List.take_append, List.take_append, List.take_replicate,
    List.take_replicate]
  congr 2
  omega

/-- The stored entries of an empty profile are zeros. -/
theorem refBytes_zero (span : Nat × Nat) : ∃ k, refBytes (Vector.replicate 32 0) span = List.replicate k 0 := by
  have hzeros : ∀ m, (List.replicate m 0).flatMap be16 = List.replicate (2 * m) 0 := by
    intro m
    induction m with
    | zero => rfl
    | succ m ih =>
      rw [List.replicate_succ, List.flatMap_cons, ih]
      rfl
  exact ⟨_, by rw [refBytes, Vector.toList_replicate, List.drop_replicate, List.take_replicate, hzeros]⟩

/-- The rows of a LEARNED window with an empty profile hold Pmax, LEARNED and zeros. -/
theorem profileRow_empty {w : Win} {p : Nat} (r : Nat) (hw : (s.windows.get w).pmax = some p)
    (hn : (s.windows.get w).norm = .learned) (ht : s.profiles.get w = Vector.replicate 32 0) :
    s.profileRow w r = padBytes 13 (if r = 0 then be16 p ++ [1] else []) := by
  obtain ⟨k, hk⟩ := refBytes_zero (refSpan r)
  unfold State.profileRow
  dsimp only
  rw [ht, hk, hw, hn]
  split
  · exact padBytes_append_zeros 13 k _
  · exact padBytes_append_zeros 13 k []

theorem Records.profileRow {t : State} (h : Records s t) (w : Win) (r : Nat) : t.profileRow w r = s.profileRow w r := by
  unfold State.profileRow
  rw [h.windows, h.profiles]

theorem row_inj (w : Win) {r q : Nat} (hr : r < 6) (hq : q < 6) : w.row r = w.row q ↔ r = q := by
  have hw : w.index < 4 := by cases w <;> decide
  constructor
  · intro h
    have hv : (11 + 6 * w.index + r) % 35 = (11 + 6 * w.index + q) % 35 := congrArg Fin.val h
    omega
  · rintro rfl
    rfl

theorem storeWrite_row (l m : LRow) (c : Content) (s : State) :
    (storeWrite l c s).row m = if m = l then c else s.row m := by
  unfold State.row
  rw [storeWrite_store]
  dsimp only
  rw [get_set_fin]
  split <;> rfl

theorem storeWrite_queues {l : LRow} (c : Content) (h : s.store.shadows[l].isVolatile = false) :
    l ∈ (storeWrite l c s).store.queue := by
  rw [storeWrite_store]
  dsimp only
  split
  · rename_i k
    exact k.resolve_left (fun v => absurd (h.symm.trans v) (by decide))
  · exact List.mem_append_right _ (List.mem_singleton.2 rfl)

/-- Profile rows written in the order of a list (log 45). -/
def writeRows (w : Win) (rs : List Nat) (s : State) : State := rs.foldl (fun s r => writeProfileRow w r s) s

theorem writeRows_cons (w : Win) (a : Nat) (rs : List Nat) (s : State) :
    writeRows w (a :: rs) s = writeRows w rs (writeProfileRow w a s) := rfl

theorem writeRows_records (w : Win) (rs : List Nat) (s : State) : Records s (writeRows w rs s) := by
  induction rs generalizing s with
  | nil => exact .refl s
  | cons a rs ih => exact (Records.writeProfileRow w a s).trans (ih _)

theorem writeRows_row (w : Win) {rs : List Nat} (hrs : ∀ q ∈ rs, q < 6) {r : Nat} (hr : r < 6) (s : State) :
    (writeRows w rs s).row (w.row r) = if r ∈ rs then s.profileRow w r else s.row (w.row r) := by
  induction rs generalizing s with
  | nil => rfl
  | cons a rs ih =>
    rw [writeRows_cons, ih (fun q hq => hrs q (List.mem_cons_of_mem a hq)),
      (Records.writeProfileRow w a s).profileRow, writeProfileRow, storeWrite_row]
    by_cases ha : r = a
    · subst ha
      simp
    · have hne : w.row r ≠ w.row a := mt (row_inj w hr (hrs a List.mem_cons_self)).1 ha
      simp [hne, ha]

theorem writeRows_keeps (w : Win) (rs : List Nat) {m : LRow} (h : m ∈ s.store.queue) :
    m ∈ (writeRows w rs s).store.queue := by
  induction rs generalizing s with
  | nil => exact h
  | cons a rs ih => exact ih (storeWrite_keeps _ _ h)

theorem writeRows_queues (w : Win) {rs : List Nat} {r : Nat} (hr : r ∈ rs)
    (h : s.store.shadows[w.row r].isVolatile = false) : w.row r ∈ (writeRows w rs s).store.queue := by
  induction rs generalizing s with
  | nil => cases hr
  | cons a rs ih =>
    rw [writeRows_cons]
    obtain rfl | hr := List.mem_cons.1 hr
    · exact writeRows_keeps w rs (storeWrite_queues _ h)
    · exact ih hr (by rw [writeProfileRow, storeWrite_isVolatile]; exact h)

/-- In RUN the writes leave the events. -/
theorem writeRows_events (w : Win) (rs : List Nat) (h : s.sys.mode = .run) : (writeRows w rs s).events = s.events := by
  induction rs generalizing s with
  | nil => rfl
  | cons a rs ih =>
    have hsys : (writeProfileRow w a s).sys = s.sys :=
      ((Records.writeProfileRow w a s).awake (by rw [h]; decide)).1
    rw [writeRows_cons, ih (by rw [hsys]; exact h), writeProfileRow, storeWrite_events _ _ h]

/-! ### The bottom (R88) -/

/-- Pmax taken at the bottom and Ref cleared, before the window becomes LEARNED. -/
def bottomTaken (w : Win) (s : State) : State :=
  (s.modWindow w fun r => { r with pmax := some (s.windows.get w).p }).setProfile w (Vector.replicate 32 0)

/-- The window as the bottom found makes it LEARNED (R88). -/
def bottomLearned (w : Win) (s : State) : State := writeRows w (List.range 6) (changeNorm w .learned (bottomTaken w s))

theorem bottomFound_learns {w : Win} (h : 600 ≤ (s.windows.get w).p) (h' : (s.windows.get w).p ≤ 2047) :
    bottomFound w s = stopRun w .bottom (bottomLearned w s) := if_pos ⟨h, h'⟩

theorem bottomFound_fails {w : Win} (h : (s.windows.get w).p < 600 ∨ 2047 < (s.windows.get w).p) :
    bottomFound w s = (stopRun w .bottom s).modWindow w fun r => { r with pendingFault := .normFailed } :=
  if_neg (by omega)

/-- A change to LEARNED moves the field, and what an offer moves (R67). -/
theorem changeNorm_records (w : Win) (v : Norm) (s : State) :
    Records (s.modWindow w fun r => { r with norm := v }) (changeNorm w v s) := by
  by_cases h : (s.windows.get w).norm = v
  · have e : (s.modWindow w fun r => { r with norm := v }) = s := by
      show s.withWindows (s.windows.set w _) = s
      rw [Wins.set_eq_self (by rw [← h])]
      rfl
    rw [e, changeNorm_same h]
    exact .refl s
  · rw [changeNorm_changed h]
    exact .offer _ _

theorem bottomLearned_records (w : Win) (s : State) :
    Records ((bottomTaken w s).modWindow w fun r => { r with norm := .learned }) (bottomLearned w s) :=
  (changeNorm_records w .learned _).trans (writeRows_records w _ _)

theorem bottomTaken_window (w : Win) (s : State) : (bottomTaken w s).windows.get w =
    { s.windows.get w with pmax := some (s.windows.get w).p } :=
  modWindow_get w (fun r => { r with pmax := some (s.windows.get w).p }) s

theorem bottomTaken_profile (w : Win) (s : State) : (bottomTaken w s).profiles.get w = Vector.replicate 32 0 :=
  Wins.get_set_self _ _ _

theorem bottomLearned_window (w : Win) (s : State) : (bottomLearned w s).windows.get w =
    { s.windows.get w with pmax := some (s.windows.get w).p, norm := .learned } := by
  rw [(bottomLearned_records w s).windows, modWindow_get, bottomTaken_window]

theorem bottomLearned_profile (w : Win) (s : State) :
    (bottomLearned w s).profiles.get w = Vector.replicate 32 0 :=
  (congrArg (Wins.get · w) (bottomLearned_records w s).profiles).trans (bottomTaken_profile w s)

/-- The six rows hold Pmax, LEARNED and an empty profile (R88, R113). -/
theorem bottomLearned_row (w : Win) {r : Nat} (hr : r < 6) (s : State) : (bottomLearned w s).row (w.row r) =
    padBytes 13 (if r = 0 then be16 (s.windows.get w).p ++ [1] else []) := by
  have hrow : (bottomLearned w s).row (w.row r) = (changeNorm w .learned (bottomTaken w s)).profileRow w r := by
    rw [bottomLearned, writeRows_row w (fun q => List.mem_range.1) hr, if_pos (List.mem_range.2 hr)]
  rw [hrow, ← (writeRows_records w (List.range 6) _).profileRow]
  have hwin := bottomLearned_window w s
  exact profileRow_empty r (congrArg WindowRec.pmax hwin) (congrArg WindowRec.norm hwin) (bottomLearned_profile w s)

theorem changeNorm_store (w : Win) (v : Norm) (s : State) : (changeNorm w v s).store = s.store := by
  unfold changeNorm
  split
  · rfl
  · exact offer_store _ _

theorem bottomLearned_queues (w : Win) {r : Nat} (hr : r < 6) (h : s.store.shadows[w.row r].isVolatile = false) :
    w.row r ∈ (bottomLearned w s).store.queue := by
  have hstore : (changeNorm w .learned (bottomTaken w s)).store = s.store := changeNorm_store _ _ _
  rw [bottomLearned]
  exact writeRows_queues w (List.mem_range.2 hr) (by rw [hstore]; exact h)

theorem bottomLearned_events {w : Win} (hm : s.sys.mode = .run) (hn : (s.windows.get w).norm ≠ .learned) (q : Port) :
    (bottomLearned w s).events.get q = (s.events.get q).capture .normalizationChanged := by
  have hchange : changeNorm w .learned (bottomTaken w s) =
      captureAll .normalizationChanged ((bottomTaken w s).modWindow w fun r => { r with norm := .learned }) := by
    rw [changeNorm_changed (by rw [bottomTaken_window]; exact hn)]
    exact offer_run hm
  rw [bottomLearned, writeRows_events w _ (by rw [hchange]; exact hm), hchange]
  exact captureAll_get .normalizationChanged _ q

/-- Settles O33. -/
theorem runTestsTaken : Obligations.RunTestsTaken := by
  refine ⟨?silent, ?counted, fun w d s => exec_windowStall, fun w d s => exec_runTimeout, ?stall,
    fun w s => ⟨reachTop_known, reachTop_lost⟩, ?top, ?bottom, ?stop⟩
  case silent =>
    intro w s ha he
    rw [exec_noPulseTest false ha, exec_noPulseTest true ha, judgeNoPulse_silent false (by exact he),
      judgeNoPulse_silent true (by exact he)]
    exact ⟨rfl, rfl⟩
  case counted =>
    intro w b s ha he
    rw [exec_noPulseTest b ha, judgeNoPulse_counted b (by exact he)]
  case stall =>
    intro w s
    refine ⟨fun h => ?_, takeStall_down⟩
    rw [takeStall_up h, stallIsPinch_eq]
  case top =>
    intro w s hs hr
    dsimp only
    have hturn : WindowRec.turning .down { s.windows.get w with
        p := 0, normPhase := .normDown, brakeDue := some (s.now + msec 40) } = { s.windows.get w with
          p := 0, normPhase := .normDown, run := .brake, nextDir := some .down, runDue := none
          noPulseArmed := false, brakeDue := some (s.now + msec 40) } := by
      rw [WindowRec.turning, if_neg hr]
    rw [topFound_eq hs, tellDrive_windows, brakeRun_window, modWindow_get, tellDrive_arb, tellDrive_stages,
      tellDrive_pinch, brakeRun_pinch, tellDrive_events, brakeRun_stages, brakeRun_arb, brakeRun_events]
    exact ⟨hturn, rfl, rfl, rfl, rfl⟩
  case bottom =>
    intro w s
    refine ⟨fun h h' => ⟨bottomLearned w s, bottomFound_learns h h', bottomLearned_window w s,
      bottomLearned_profile w s, ?_, ?_, ?_, fun r hr => ⟨bottomLearned_row w hr s, bottomLearned_queues w hr⟩,
      fun hm hn q => ?_⟩, bottomFound_fails⟩
    · exact (bottomLearned_records w s).stages
    · exact (bottomLearned_records w s).pinch
    · exact (bottomLearned_records w s).arb
    · rw [bottomLearned_events hm hn]
      rfl
  case stop =>
    intro w c s hs
    obtain ⟨hnow, -, hstages, -, harb⟩ := stopLearned_keeps w c s
    dsimp only
    rw [stopRun_eq c hs, brakeRun_window, brakeRun_pinch, brakeRun_stages, brakeRun_profiles, brakeRun_store,
      brakeRun_events, brakeRun_arb, hnow, hstages, harb]
    exact ⟨rfl, rfl, rfl, rfl, rfl, rfl, rfl⟩

end Sys2Proof.Machine
end

section
/-! Starts and stops of a window by its run state (R74 to R76). -/

namespace Sys2Proof.Machine

variable {s : State}

/-! ### Classes and reversing windows (R74, R75) -/

theorem yields_iff (r : WindowRec) (c : Cls) : r.yields c = true ↔ ¬ c.rank < (r.cls.getD .comfort).rank := by
  rw [WindowRec.yields, decide_eq_true_eq, Nat.not_lt]

theorem not_yields {r : WindowRec} {c : Cls} (h : c.rank < (r.cls.getD .comfort).rank) : r.yields c = false :=
  Bool.eq_false_iff.2 fun k => (yields_iff r c).1 k h

theorem countsReversing_iff (r : WindowRec) : r.countsReversing = true ↔
    r.run = .reversing ∨ r.run = .brake ∧ (r.pending = some .pinch ∨ r.pending = some .hallFault) := by
  simp only [WindowRec.countsReversing, Bool.or_eq_true, Bool.and_eq_true, beq_iff_eq]

/-- Only REVERSING and BRAKE can count as reversing. -/
theorem not_countsReversing {r : WindowRec} (h : r.run ≠ .reversing) (hb : r.run ≠ .brake) :
    r.countsReversing = false :=
  Bool.eq_false_iff.2 fun k => ((countsReversing_iff r).1 k).elim h fun b => hb b.1

/-! ### A start by run state (R75, R76) -/

/-- A taken start puts the window into the comfort set or takes it out (R90, R91). -/
def startPut (w : Win) (q : Start) (s : State) : State := s.setComfort w (q.source == .comfort)

theorem retarget_eq (w : Win) (q : Start) (s : State) : retarget w q s =
    (let x := s.modWindow w fun r => { r with mode := some q.mode, source := some q.source, cls := some q.cls }
     x.withArb { x.arb with
       running := x.arb.running.map fun y =>
         if y.act = .window w then { y with dir := q.dir.dir, mode := some q.mode, source := q.source } else y }) :=
  tellDrive_eq w q.dir (some q.mode) (some q.source) (setMovement w q.mode q.source q.cls s)

section
variable {w : Win} {q : Start}

theorem applyStart_stopped (h : (s.windows.get w).run = .stopped) :
    applyStart w q s = (startPut w q (submitWindow w q .queued s).1, .queued) := by
  simp only [applyStart, h]
  exact if_pos (.inl rfl)

theorem applyStart_queued (h : (s.windows.get w).run = .queued) (hy : (s.windows.get w).yields q.cls = true) :
    applyStart w q s = (startPut w q (submitWindow w q .queued s).1, .queued) := by
  simp only [applyStart, h, if_pos hy]
  exact if_pos (.inl rfl)

/-- A movement of a higher class overrules a start, queued or running. -/
theorem applyStart_overruled (h : (s.windows.get w).run = .queued ∨ (s.windows.get w).run = .runUp
    ∨ (s.windows.get w).run = .runDown) (hy : (s.windows.get w).yields q.cls = false) :
    applyStart w q s = (s, .overruled) := by
  rcases h with h | h | h <;> simp [applyStart, h, hy]

/-- A running drive of the same direction is taken over. -/
theorem applyStart_takesOver (h : (s.windows.get w).run = .runUp ∧ q.dir = .up
    ∨ (s.windows.get w).run = .runDown ∧ q.dir = .down) (hy : (s.windows.get w).yields q.cls = true) :
    applyStart w q s = (startPut w q (retarget w q s), .ok) := by
  rcases h with ⟨hr, hd⟩ | ⟨hr, hd⟩ <;>
    simp only [applyStart, hr, if_pos hy, RunState.dir, hd, if_true] <;> exact if_pos (by simp)

/-- A running drive of the other direction turns through a brake. -/
theorem applyStart_turns (h : (s.windows.get w).run = .runUp ∧ q.dir = .down
    ∨ (s.windows.get w).run = .runDown ∧ q.dir = .up) (hy : (s.windows.get w).yields q.cls = true) :
    applyStart w q s = (startPut w q (brakeToChange w q.dir (retarget w q s)), .ok) := by
  rcases h with ⟨hr, hd⟩ | ⟨hr, hd⟩ <;>
    simp only [applyStart, hr, if_pos hy, RunState.dir, hd, Option.some.injEq, reduceCtorEq, if_false] <;>
    exact if_pos (by simp)

/-- A start during a brake, with what the brake answers. -/
theorem applyStart_brake (h : (s.windows.get w).run = .brake) : applyStart w q s =
    if (startInBrake w q s).2 = .queued ∨ (startInBrake w q s).2 = .ok then
      (startPut w q (startInBrake w q s).1, (startInBrake w q s).2)
    else startInBrake w q s := by
  simp only [applyStart, h]
  rfl

/-- A stop brake, and a direction change that yields, restart towards the request; a pending fault goes with the stop
cause (log 35). -/
theorem startInBrake_restarts (hh : s.held (.window w) = false)
    (hy : (s.windows.get w).nextDir = none ∨ (s.windows.get w).yields q.cls = true) : startInBrake w q s =
      (retarget w q (s.modWindow w fun r =>
        { r with nextDir := some q.dir, pending := none, pendingFault := .none }), .ok) := by
  have hn : ¬ ((s.windows.get w).nextDir.isSome && !(s.windows.get w).yields q.cls) = true := by
    rcases hy with hy | hy <;> simp [hy]
  simp only [startInBrake, hh, Bool.false_eq_true, if_false, if_neg hn]

theorem startInBrake_overruled (hh : s.held (.window w) = false) (hn : (s.windows.get w).nextDir ≠ none)
    (hy : (s.windows.get w).yields q.cls = false) : startInBrake w q s = (s, .overruled) := by
  have hn' : ((s.windows.get w).nextDir.isSome && !(s.windows.get w).yields q.cls) = true := by
    simp [hy, Option.isSome_iff_ne_none, hn]
  simp only [startInBrake, hh, Bool.false_eq_true, if_false, if_pos hn']

/-- Under a brake hold a start is queued, in place of an entry of no higher class. -/
theorem startInBrake_held (hh : s.held (.window w) = true)
    (he : ∀ e, s.entry? (.window w) = some e → e.cls.rank ≤ q.cls.rank) :
    startInBrake w q s = submitWindow w q .brake s := by
  simp only [startInBrake, hh, if_true]
  cases hq : s.entry? (.window w) with
  | none => rfl
  | some e => exact if_pos (he e hq)

theorem startInBrake_held_overruled {e : Entry} (hh : s.held (.window w) = true)
    (he : s.entry? (.window w) = some e) (hr : q.cls.rank < e.cls.rank) : startInBrake w q s = (s, .overruled) := by
  simp only [startInBrake, hh, if_true, he, if_neg (Nat.not_le_of_lt hr)]

end

/-! ### A stop by run state (R74, R75) -/

theorem modWindow_setComfort (w v : Win) (f : WindowRec → WindowRec) (b : Bool) (s : State) :
    (s.setComfort v b).modWindow w f = (s.modWindow w f).setComfort v b := rfl

/-- The window whose queued entry is withdrawn, before the entry leaves. -/
theorem withdrawMovement_eq (w : Win) (run : RunState) (s : State) : withdrawMovement w run s =
    (let u := (s.modWindow w fun r =>
       { r with mode := none, source := none, cls := none, run := run, normPhase := .none }).withComfort
         (s.comfort.set w false)
     if s.entry? (.window w) = none then u
     else scan (u.withArb { s.arb with
       queue := s.arb.queue.filter (·.act != .window w)
       seq := if (s.arb.queue.filter (·.act != .window w)).isEmpty then 0 else s.arb.seq })) := by
  have hu : (clearMovement w s).modWindow w (fun r => { r with run := run, normPhase := .none }) =
      (s.modWindow w fun r =>
        { r with mode := none, source := none, cls := none, run := run, normPhase := .none }).withComfort
          (s.comfort.set w false) := by
    rw [clearMovement, modWindow_setComfort, modWindow_modWindow]
    rfl
  rw [withdrawMovement, hu]
  generalize hx : s.modWindow w (fun r =>
    { r with mode := none, source := none, cls := none, run := run, normPhase := .none }) = x
  have harb : x.arb = s.arb := by rw [← hx]; rfl
  have he : (x.withComfort (s.comfort.set w false)).entry? (.window w) = s.entry? (.window w) := by
    rw [State.entry?, State.withComfort_arb, harb]
    rfl
  rw [withdraw, he, removeEntry, setQueue, State.withComfort_arb, harb]
  cases s.entry? (.window w) <;> rfl

section
variable {w : Win} {c : Cls} (cause : StopCause)

theorem applyStop_busy (h : (s.windows.get w).countsReversing = true) : applyStop w c cause s = (s, .busy) := if_pos h

/-- A window without a movement has nothing to stop. -/
theorem applyStop_idle (h : (s.windows.get w).run = .stopped ∨ (s.windows.get w).run = .faulted) :
    applyStop w c cause s = (s, .ok) := by
  have hc : (s.windows.get w).countsReversing = false := by
    rcases h with h | h <;> exact not_countsReversing (by rw [h]; decide) (by rw [h]; decide)
  rcases h with h | h <;> simp only [applyStop, hc, h, Bool.false_eq_true, if_false]

theorem applyStop_queued (h : (s.windows.get w).run = .queued) (hy : (s.windows.get w).yields c = true) :
    applyStop w c cause s = (withdrawMovement w .stopped s, .ok) := by
  have hc := not_countsReversing (r := s.windows.get w) (by rw [h]; decide) (by rw [h]; decide)
  simp only [applyStop, hc, h, hy, Bool.false_eq_true, if_false, if_true]

theorem applyStop_running (h : (s.windows.get w).run = .runUp ∨ (s.windows.get w).run = .runDown)
    (hy : (s.windows.get w).yields c = true) : applyStop w c cause s = (stopRun w cause s, .ok) := by
  have hc : (s.windows.get w).countsReversing = false := by
    rcases h with h | h <;> exact not_countsReversing (by rw [h]; decide) (by rw [h]; decide)
  rcases h with h | h <;> simp only [applyStop, hc, h, hy, Bool.false_eq_true, if_false, if_true]

theorem applyStop_overruled (h : (s.windows.get w).run = .queued ∨ (s.windows.get w).run = .runUp
    ∨ (s.windows.get w).run = .runDown) (hy : (s.windows.get w).yields c = false) :
    applyStop w c cause s = (s, .overruled) := by
  have hc : (s.windows.get w).countsReversing = false := by
    rcases h with h | h | h <;> exact not_countsReversing (by rw [h]; decide) (by rw [h]; decide)
  rcases h with h | h | h <;> simp only [applyStop, hc, h, hy, Bool.false_eq_true, if_false]

/-! A stop during a brake that does not count as reversing. -/

variable (h : (s.windows.get w).run = .brake) (hc : (s.windows.get w).countsReversing = false)
include h hc

theorem applyStop_brake_idle (hh : s.held (.window w) = false) (hn : (s.windows.get w).nextDir = none) :
    applyStop w c cause s = (s, .ok) := by
  simp only [applyStop, hc, h, hh, hn, Option.isSome_none, Bool.false_eq_true, if_false]

/-- A direction-change brake turns into a stop brake. -/
theorem applyStop_brake_turn (hh : s.held (.window w) = false) (hn : (s.windows.get w).nextDir ≠ none)
    (hy : (s.windows.get w).yields c = true) : applyStop w c cause s =
      (s.modWindow w fun r => { r with nextDir := none, pending := some cause, normPhase := .none }, .ok) := by
  have hn' := Option.isSome_iff_ne_none.2 hn
  simp only [applyStop, hc, h, hh, hn', hy, Bool.false_eq_true, if_false, if_true]

theorem applyStop_brake_overruled (hh : s.held (.window w) = false) (hn : (s.windows.get w).nextDir ≠ none)
    (hy : (s.windows.get w).yields c = false) : applyStop w c cause s = (s, .overruled) := by
  have hn' := Option.isSome_iff_ne_none.2 hn
  simp only [applyStop, hc, h, hh, hn', hy, Bool.false_eq_true, if_false, if_true]

theorem applyStop_held_alone (hh : s.held (.window w) = true) (he : s.entry? (.window w) = none) :
    applyStop w c cause s = (s, .ok) := by
  simp only [applyStop, hc, h, hh, he, Bool.false_eq_true, if_false, if_true]

theorem applyStop_held_entry {e : Entry} (hh : s.held (.window w) = true) (he : s.entry? (.window w) = some e) :
    applyStop w c cause s =
      if e.cls.rank ≤ c.rank then (withdrawMovement w .brake s, .ok) else (s, .overruled) := by
  simp only [applyStop, hc, h, hh, he, Bool.false_eq_true, if_false, if_true]

end
end Sys2Proof.Machine
end

section
/-! The switch channels of the windows (R70 to R73). -/

namespace Sys2Proof.Machine

variable {s : State}

/-! ### A change of a channel (R70, R71) -/

theorem windowBarred_congr {t : State} (hw : t.windows = s.windows) (hc : t.crash = s.crash) (w : Win) :
    t.windowBarred w = s.windowBarred w := by
  rw [State.windowBarred, hw, hc]
  rfl

/-- The admission checks read the window and the CRASH latch alone (R74). -/
theorem admission_congr {t : State} (hw : t.windows = s.windows) (hc : t.crash = s.crash) (w : Win) (a : Asker)
    (d : WDir) (m : WMode) : t.admission w a d m = s.admission w a d m := by
  rw [State.admission, windowBarred_congr hw hc, hw]
  rfl

/-- A switch channel that moved in RUN: the pin and the position hold its reading, before anything acts on it. -/
def switchMoved (dt : Time) (c : Chan) (x : Ladder) (s : State) : State :=
  (advance dt (s.withPins { s.pins with ladders := s.pins.ladders.set c x })).modChan c fun r =>
    { r with position := decodeLadder x }

section
variable (dt : Time) (c : Chan) (x : Ladder)

@[simp] theorem switchMoved_sys : (switchMoved dt c x s).sys = s.sys := rfl
@[simp] theorem switchMoved_ctx : (switchMoved dt c x s).ctx = s.ctx := rfl
@[simp] theorem switchMoved_crash : (switchMoved dt c x s).crash = s.crash := rfl
@[simp] theorem switchMoved_child : (switchMoved dt c x s).child = s.child := rfl
@[simp] theorem switchMoved_windows : (switchMoved dt c x s).windows = s.windows := rfl
@[simp] theorem switchMoved_arb : (switchMoved dt c x s).arb = s.arb := rfl

@[simp] theorem switchMoved_chan :
    (switchMoved dt c x s).chans.get c = { s.chans.get c with position := decodeLadder x } := Chans.get_set_self _ _ _

/-- The reading of a channel is no part of what permits it (R71). -/
theorem switchMoved_permitted : (switchMoved dt c x s).switchPermitted c = s.switchPermitted c := by
  simp only [State.switchPermitted, switchMoved_sys, switchMoved_ctx, switchMoved_crash, switchMoved_child,
    switchMoved_windows, switchMoved_chan]

theorem switchMoved_auto (w : Win) : (switchMoved dt c x s).autoMovement w = s.autoMovement w := by
  simp only [State.autoMovement, State.windowQueued, State.entry?, switchMoved_windows, switchMoved_arb]

theorem switchMoved_admission (w : Win) (a : Asker) (d : WDir) (m : WMode) :
    (switchMoved dt c x s).admission w a d m = s.admission w a d m :=
  admission_congr (switchMoved_windows dt c x) (switchMoved_crash dt c x) w a d m

end

theorem exec_switch_same (dt : Time) {c : Chan} {x : Ladder} (h : Awake s)
    (hp : decodeLadder x = (s.chans.get c).position) : exec (.switchChannelChange dt c x) s =
      .next (refreshPark (advance dt (s.withPins { s.pins with ladders := s.pins.ladders.set c x }))) := by
  refine (onInput_awake dt (fun p => { p with ladders := p.ladders.set c x }) (takeSwitch c x) h).trans ?_
  rw [takeSwitch, if_pos (by exact hp)]

/-- The act of a change of kind `k` on the state in which the channel has moved (R72). -/
def actOn (k : ChangeKind) (c : Chan) (pos : SwitchPos) (s : State) : State :=
  match k with
  | .press d => takePress c d pos s
  | .deepen d => takePress c d pos s
  | .ease => s
  | .release => takeRelease c s

theorem exec_switch_moved (dt : Time) {c : Chan} {x : Ladder} (h : Awake s)
    (hp : (s.chans.get c).position ≠ decodeLadder x) : exec (.switchChannelChange dt c x) s =
      .next (refreshPark (actOn (changeKind (s.chans.get c).position (decodeLadder x)) c (decodeLadder x)
        (switchMoved dt c x s))) := by
  refine (onInput_awake dt (fun p => { p with ladders := p.ladders.set c x }) (takeSwitch c x) h).trans ?_
  rw [takeSwitch, if_neg (by exact hp.symm)]
  rfl

/-! ### The kinds of change (R72; log 17) -/

theorem changeKind_release (old : SwitchPos) : changeKind old .neutral = .release := rfl

/-- A press, and a deepen to an AUTO position, act. -/
theorem changeKind_acts {old pos : SwitchPos} {d : WDir} (hd : switchDir pos = some d)
    (h : switchDir old ≠ some d ∨ pos = .upAuto ∨ pos = .downAuto) (c : Chan) (s : State) :
    actOn (changeKind old pos) c pos s = takePress c d pos s := by
  unfold changeKind
  rw [hd]
  dsimp only
  by_cases ho : switchDir old = some d
  · rw [if_pos ho]
    rcases h.resolve_left (not_not.2 ho) with rfl | rfl <;> rfl
  · rw [if_neg ho]
    rfl

/-- Any other change within a direction eases. -/
theorem changeKind_eases {old pos : SwitchPos} {d : WDir} (hd : switchDir pos = some d)
    (h : ¬ (switchDir old ≠ some d ∨ pos = .upAuto ∨ pos = .downAuto)) (c : Chan) (s : State) :
    actOn (changeKind old pos) c pos s = s := by
  obtain ⟨ho, ha⟩ := not_or.1 h
  obtain ⟨hu, hn⟩ := not_or.1 ha
  unfold changeKind
  rw [hd]
  dsimp only
  rw [if_pos (not_not.1 ho)]
  cases pos with
  | upAuto => exact absurd rfl hu
  | downAuto => exact absurd rfl hn
  | _ => rfl

/-- A change that acts is taken as the press at its position. -/
theorem exec_switch_acts (dt : Time) {c : Chan} {d : WDir} {pos : SwitchPos} (h : Awake s)
    (hp : (s.chans.get c).position ≠ pos) (hd : switchDir pos = some d)
    (ha : switchDir (s.chans.get c).position ≠ some d ∨ pos = .upAuto ∨ pos = .downAuto) :
    exec (.switchChannelChange dt c (.band pos)) s =
      .next (refreshPark (takePress c d pos (switchMoved dt c (.band pos) s))) :=
  (exec_switch_moved dt (x := .band pos) h hp).trans
    (congrArg (fun t => (Host.Outcome.next (refreshPark t) : Out)) (changeKind_acts hd ha c _))

theorem exec_switch_eases (dt : Time) {c : Chan} {d : WDir} {pos : SwitchPos} (h : Awake s)
    (hp : (s.chans.get c).position ≠ pos) (hd : switchDir pos = some d)
    (ha : ¬ (switchDir (s.chans.get c).position ≠ some d ∨ pos = .upAuto ∨ pos = .downAuto)) :
    exec (.switchChannelChange dt c (.band pos)) s = .next (refreshPark (switchMoved dt c (.band pos) s)) :=
  (exec_switch_moved dt (x := .band pos) h hp).trans
    (congrArg (fun t => (Host.Outcome.next (refreshPark t) : Out)) (changeKind_eases hd ha c _))

theorem exec_switch_release (dt : Time) {c : Chan} {x : Ladder} (h : Awake s) (hx : decodeLadder x = .neutral)
    (hp : (s.chans.get c).position ≠ .neutral) : exec (.switchChannelChange dt c x) s =
      .next (refreshPark (takeRelease c (switchMoved dt c x s))) := by
  rw [exec_switch_moved dt h (by rw [hx]; exact hp), hx, changeKind_release]
  rfl

theorem pressMode_eq (pos : SwitchPos) :
    pressMode pos = if pos = .upAuto ∨ pos = .downAuto then .auto else .manual := by
  cases pos <;> rfl

/-! ### A press and a release (R71, R72) -/

theorem switchPermitted_iff (c : Chan) : s.switchPermitted c = true ↔ s.sys.mode = .run
    ∧ (s.ctx.ignition ≠ .off ∨ s.ctx.retainedDue ≠ none) ∧ s.crash.latched = false
    ∧ (∀ d, chanSide c = some d → s.child.effective.get d = false) ∧ (s.chans.get c).waiting = false
    ∧ (s.windows.get (chanWin c)).run ≠ .faulted ∧ (s.windows.get (chanWin c)).run ≠ .reversing
    ∧ (s.windows.get (chanWin c)).normPhase = .none := by
  have hside : ((chanSide c).all fun d => !s.child.effective.get d) = true ↔
      ∀ d, chanSide c = some d → s.child.effective.get d = false := by
    cases chanSide c <;> simp
  simp only [State.switchPermitted, WindowRec.normalizing, Bool.and_eq_true, Bool.or_eq_true, hside, beq_iff_eq,
    bne_iff_ne, Bool.not_eq_true', Option.isSome_iff_ne_none, bne_eq_false_iff_eq, and_assoc]

theorem autoMovement_iff (w : Win) : s.autoMovement w = true ↔
    (∃ t, (s.windows.get w).mode = some t ∧ t ≠ .manual)
      ∧ ((s.windows.get w).run = .queued ∨ (s.windows.get w).run = .runUp ∨ (s.windows.get w).run = .runDown
        ∨ ((s.windows.get w).run = .brake ∧ ((s.windows.get w).nextDir ≠ none ∨ s.entry? (.window w) ≠ none))) := by
  unfold State.autoMovement
  dsimp only
  rw [Bool.and_eq_true, and_comm]
  refine and_congr ?mode ?moving
  case mode =>
    cases (s.windows.get w).mode with
    | none => simp
    | some t => cases t <;> simp
  case moving =>
    rw [← windowQueued_iff]
    cases (s.windows.get w).run <;> simp [Option.isSome_iff_ne_none]

section
variable {c : Chan} {d : WDir} {pos : SwitchPos}

theorem takePress_barred (h : s.switchPermitted c = false) : takePress c d pos s = holdChan c s := if_pos (by simp [h])

theorem takePress_stops (h : s.switchPermitted c = true) (ha : s.autoMovement (chanWin c) = true) :
    takePress c d pos s = holdChan c (applyStop (chanWin c) .access .stopRequest s).1 := by
  simp only [takePress, h, ha, Bool.not_true, Bool.false_eq_true, if_false, if_true]

theorem takePress_starts {m : WMode} (h : s.switchPermitted c = true) (ha : s.autoMovement (chanWin c) = false)
    (hm : s.admission (chanWin c) .switch d (pressMode pos) = .go m) : takePress c d pos s =
      (applyStart (chanWin c) { dir := d, mode := m, cls := .access, source := chanSource c } s).1 := by
  simp only [takePress, h, ha, hm, Bool.not_true, Bool.false_eq_true, if_false]

theorem takePress_waits (h : s.switchPermitted c = true) (ha : s.autoMovement (chanWin c) = false)
    (hm : ∀ m, s.admission (chanWin c) .switch d (pressMode pos) ≠ .go m) : takePress c d pos s = holdChan c s := by
  cases hk : s.admission (chanWin c) .switch d (pressMode pos) with
  | go m => exact absurd hk (hm m)
  | _ => simp only [takePress, h, ha, hk, Bool.not_true, Bool.false_eq_true, if_false]

end

/-- A release clears waiting and ends a MANUAL movement of the channel (R71, R72). -/
theorem takeRelease_eq (c : Chan) (s : State) : takeRelease c s =
    (let u := s.modChan c fun r => { r with waiting := false }
     if (s.windows.get (chanWin c)).mode = some .manual ∧ (s.windows.get (chanWin c)).source = some (chanSource c) then
       (applyStop (chanWin c) .access .released u).1
     else u) := rfl

theorem modChan_modChan (c : Chan) (f g : ChanRec → ChanRec) (s : State) :
    (s.modChan c f).modChan c g = s.modChan c fun r => g (f r) := by
  cases c with
  | panel w => cases w <;> rfl
  | _ => rfl

/-- Settles O35. -/
theorem switchTaken : Obligations.SwitchTaken := by
  refine ⟨fun dt c x s => exec_switch_same dt, ?fromNeutral, fun c s => switchPermitted_iff c, ?released, ?acted,
    ?start, ?turn, ?stop⟩
  case fromNeutral =>
    intro dt c pos d s h hp hd
    have hpos : (s.chans.get c).position ≠ pos := by
      rw [hp]
      rintro rfl
      cases hd
    have hact : switchDir (s.chans.get c).position ≠ some d ∨ pos = .upAuto ∨ pos = .downAuto :=
      .inl (by rw [hp]; exact (Option.some_ne_none d).symm)
    dsimp only
    rw [exec_switch_acts dt h hpos hd hact]
    refine ⟨fun hn => ?_, fun m hy hr hm => ?_⟩
    · rw [takePress_barred (by rw [switchMoved_permitted]; exact hn)]
      rfl
    · have ha : s.autoMovement (chanWin c) = false :=
        Bool.eq_false_iff.2 fun k => by simpa [hr] using ((autoMovement_iff _).1 k).2
      rw [takePress_starts (by rw [switchMoved_permitted]; exact hy) (by rw [switchMoved_auto]; exact ha)
        (by rw [switchMoved_admission, pressMode_eq]; exact hm)]
      rfl
  case released =>
    intro dt c x s h hx hp
    rw [exec_switch_release dt h hx hp, takeRelease_eq, switchMoved_windows, switchMoved, modChan_modChan, hx]
  case acted =>
    intro dt c pos d s h hp hd
    dsimp only
    refine ⟨fun hn => ?_, fun hact hn => ?_, fun hact hy ha => ?_, fun m hact hy ha hm => ?_, fun hact hy ha hm => ?_⟩
    · rw [exec_switch_eases dt h hp hd hn]
      rfl
    · rw [exec_switch_acts dt h hp hd hact, takePress_barred (by rw [switchMoved_permitted]; exact hn)]
      rfl
    · rw [exec_switch_acts dt h hp hd hact, takePress_stops (by rw [switchMoved_permitted]; exact hy)
        (by rw [switchMoved_auto]; exact (autoMovement_iff _).2 ha)]
      rfl
    · rw [exec_switch_acts dt h hp hd hact, takePress_starts (by rw [switchMoved_permitted]; exact hy)
        (by rw [switchMoved_auto]; exact Bool.eq_false_iff.2 (mt (autoMovement_iff _).1 ha))
        (by rw [switchMoved_admission, pressMode_eq]; exact hm)]
      rfl
    · rw [exec_switch_acts dt h hp hd hact, takePress_waits (by rw [switchMoved_permitted]; exact hy)
        (by rw [switchMoved_auto]; exact Bool.eq_false_iff.2 (mt (autoMovement_iff _).1 ha))
        (by simp only [switchMoved_admission, pressMode_eq]; exact hm)]
      rfl
  case start =>
    intro w q s
    have hyes := (yields_iff (s.windows.get w) q.cls).2
    have hno := not_yields (r := s.windows.get w) (c := q.cls)
    dsimp only
    refine ⟨applyStart_stopped, fun h hu => applyStart_queued h (hyes hu), fun h hu => applyStart_overruled h (hno hu),
      fun h hu => ?_, fun h hu => ?_, fun h hh hn => ?_, fun h hh he => ?_, fun h hh hn hu => ?_,
      fun e h hh he hr => ?_⟩
    · rw [applyStart_takesOver h (hyes hu), retarget_eq]
      rfl
    · rw [applyStart_turns h (hyes hu), retarget_eq]
      rfl
    · rw [applyStart_brake h, startInBrake_restarts hh (hn.imp_right hyes), if_pos (.inr rfl), retarget_eq]
      rfl
    · rw [applyStart_brake h, startInBrake_held hh he]
      exact if_pos (.inl rfl)
    · rw [applyStart_brake h, startInBrake_overruled hh hn (hno hu)]
      exact if_neg (by simp)
    · rw [applyStart_brake h, startInBrake_held_overruled hh he hr]
      exact if_neg (by simp)
  case turn =>
    intro w d s hr hs
    dsimp only
    have hturn : WindowRec.turning d { s.windows.get w with brakeDue := some (s.now + msec 40) } =
        { s.windows.get w with run := .brake, nextDir := some d, runDue := none, noPulseArmed := false
                               brakeDue := some (s.now + msec 40) } := by
      rw [WindowRec.turning, if_neg hr]
    rw [brakeToChange_eq d hs, brakeRun_window, brakeRun_stages, brakeRun_pinch, brakeRun_arb]
    exact ⟨hturn, rfl, rfl, rfl⟩
  case stop =>
    intro w c cause s
    have hyes := (yields_iff (s.windows.get w) c).2
    have hno := not_yields (r := s.windows.get w) (c := c)
    dsimp only
    simp only [← withdrawMovement_eq]
    refine ⟨fun h => applyStop_busy cause ((countsReversing_iff _).2 h), applyStop_idle cause,
      fun h hu => applyStop_queued cause h (hyes hu), fun h hu => applyStop_running cause h (hyes hu),
      fun h hu => applyStop_overruled cause h (hno hu), fun h hn => ?_⟩
    have hc : (s.windows.get w).countsReversing = false := Bool.eq_false_iff.2 (mt (countsReversing_iff _).1 hn)
    refine ⟨applyStop_brake_idle cause h hc, fun hh hd hu => applyStop_brake_turn cause h hc hh hd (hyes hu),
      fun hh hd hu => applyStop_brake_overruled cause h hc hh hd (hno hu), applyStop_held_alone cause h hc,
      fun e hh he => ⟨fun hr => ?_, fun hr => ?_⟩⟩
    · rw [applyStop_held_entry cause h hc hh he, if_pos hr]
    · rw [applyStop_held_entry cause h hc hh he, if_neg (Nat.not_le_of_lt hr)]

end Sys2Proof.Machine
end

section
/-! WINDOW_REQUEST and the admission checks (R74, R84, R85), and NORMALIZE_WINDOW (R67, R86). -/

namespace Sys2Proof.Machine

variable {s : State}

/-! ### Admission (R74) -/

theorem windowBarred_eq (w : Win) (s : State) : s.windowBarred w =
    if s.crash.latched = true then some .crashActive
    else if (s.windows.get w).run = .faulted then some .notNormalized
    else if (s.windows.get w).run = .reversing ∨ ((s.windows.get w).run = .brake
        ∧ ((s.windows.get w).pending = some .pinch ∨ (s.windows.get w).pending = some .hallFault))
      ∨ (s.windows.get w).normPhase ≠ .none then some .busy
    else none := by
  have hb : ((s.windows.get w).countsReversing || (s.windows.get w).normalizing) = true ↔
      (s.windows.get w).run = .reversing ∨ ((s.windows.get w).run = .brake
          ∧ ((s.windows.get w).pending = some .pinch ∨ (s.windows.get w).pending = some .hallFault))
        ∨ (s.windows.get w).normPhase ≠ .none := by
    rw [Bool.or_eq_true, countsReversing_iff, WindowRec.normalizing, bne_iff_ne, or_assoc]
  simp only [State.windowBarred, hb]

theorem admission_barred {w : Win} {b : Result} (a : Asker) (d : WDir) (m : WMode) (h : s.windowBarred w = some b) :
    s.admission w a d m = .no b := by
  simp only [State.admission, h]

theorem admission_open {w : Win} (a : Asker) (d : WDir) (m : WMode) (h : s.windowBarred w = none) :
    s.admission w a d m = (s.windows.get w).admission a d m := by
  simp only [State.admission, h]

section
variable {r : WindowRec} {a : Asker} {m : WMode}

/-- A restricted window moves up for a switch alone. -/
theorem admission_up_restricted (h : r.restricted = true) :
    r.admission a .up m = if a = .switch then .go .manual else .no .inhibited := by
  simp only [WindowRec.admission, h, if_true]
  cases a <;> rfl

/-- A mode other than MANUAL upwards asks for LEARNED. -/
theorem admission_up_unlearned (h : r.restricted = false) (hm : m ≠ .manual) (hn : r.norm ≠ .learned) :
    r.admission a .up m = if a = .port then .no .notNormalized else .go .manual := by
  have hb : (m != .manual && r.norm != .learned) = true := by simp [hm, hn]
  simp only [WindowRec.admission, h, Bool.false_eq_true, if_false, if_pos hb]
  cases a <;> rfl

theorem admission_up_goes (h : r.restricted = false) (hm : m = .manual ∨ r.norm = .learned) :
    r.admission a .up m = .go m := by
  have hb : ¬ (m != .manual && r.norm != .learned) = true := by rcases hm with hm | hm <;> simp [hm]
  simp only [WindowRec.admission, h, Bool.false_eq_true, if_false, if_neg hb]

/-- A mode other than MANUAL downwards asks for a known position. -/
theorem admission_down_unlearned (hm : m ≠ .manual) (hn : r.norm = .unlearned) :
    r.admission a .down m = if a = .port then .no .notNormalized else .go .manual := by
  have hb : (m != .manual && r.norm == .unlearned) = true := by simp [hm, hn]
  simp only [WindowRec.admission, if_pos hb]
  cases a <;> rfl

theorem admission_down_still (hn : r.norm = .learned) (hp : r.pmax.getD 2047 ≤ r.p + 8) :
    r.admission a .down m = .still := by
  simp [WindowRec.admission, hn, hp]

theorem admission_down_learned (hn : r.norm = .learned) (hp : r.p + 8 < r.pmax.getD 2047) :
    r.admission a .down m = .go m := by
  simp [WindowRec.admission, hn, Nat.not_le_of_lt hp]

theorem admission_down_unknown (hn : r.norm = .positionLost ∨ (r.norm = .unlearned ∧ m = .manual)) :
    r.admission a .down m = .go m := by
  rcases hn with hn | ⟨hn, rfl⟩ <;> simp [WindowRec.admission, hn]

end

/-! ### WINDOW_REQUEST (R84, R85) -/

section
variable (p : Port) {w : Win} {d : WDir} {m : WMode}

theorem portStart_refused {x : Result} (h : s.admission w .port d m = .no x) : portStart p w d m s = (s, x) := by
  simp only [portStart, h]

theorem portStart_still (h : s.admission w .port d m = .still) : portStart p w d m s = (s, .ok) := by
  simp only [portStart, h]

theorem portStart_goes {n : WMode} (h : s.admission w .port d m = .go n) : portStart p w d m s =
    applyStart w { dir := d, mode := n, cls := portClass p, source := portSource p } s := by
  simp only [portStart, h]

theorem moveTo_barred {x : Result} (n : Nat) (h : s.windowBarred w = some x) : moveTo p w n s = (s, x) := by
  simp only [moveTo, h]

theorem moveTo_unlearned (n : Nat) (h : s.windowBarred w = none) (hn : (s.windows.get w).norm ≠ .learned) :
    moveTo p w n s = (s, .notNormalized) := by
  simp only [moveTo, h, if_pos hn]

/-- The movement to a position of a LEARNED window, before a clamped position is told. -/
def moveTowards (p : Port) (w : Win) (t : Nat) (s : State) : State × Result :=
  if t = 0 then portStart p w .up .auto s
  else if t = (s.windows.get w).pmax.getD 2047 then portStart p w .down .auto s
  else if t < (s.windows.get w).p then portStart p w .up (.target t) s
  else if (s.windows.get w).p < t then portStart p w .down (.target t) s
  else applyStop w (portClass p) .target s

theorem clampedResult_eq (x t : Nat) (r : Result) :
    clampedResult (t != x) r = if t ≠ x ∧ (r = .queued ∨ r = .ok) then .clamped else r := by
  simp only [clampedResult, Bool.and_eq_true, Bool.or_eq_true, bne_iff_ne, beq_iff_eq]

theorem moveTo_learned (n : Nat) (h : s.windowBarred w = none) (hn : (s.windows.get w).norm = .learned) :
    moveTo p w n s =
      (let t := min n ((s.windows.get w).pmax.getD 2047)
       let y := moveTowards p w t s
       (y.1, if t ≠ n ∧ (y.2 = .queued ∨ y.2 = .ok) then .clamped else y.2)) := by
  simp only [moveTo, h, if_neg (not_not.2 hn), clampedResult_eq]
  rfl

variable {dt : Time} {b : Byte} (hr : Receiving s p) (ha : Admitted s p 3) (hw : winOf b = some w)
include hr ha hw

theorem exec_windowRequest_start {a : Byte} (h : a = 0 ∧ d = .up ∨ a = 1 ∧ d = .down) :
    exec (.windowRequest dt p [b, a]) s = .next (answered p 0x30
      (Reply.of (portStart p w d .auto (atOwner dt p s)).2) (portStart p w d .auto (atOwner dt p s)).1) := by
  refine (onRequest_admitted dt p 0x30 [b, a] windowRequestOwner hr ha (by simp)).trans ?_
  rcases h with ⟨rfl, rfl⟩ | ⟨rfl, rfl⟩ <;> simp only [windowRequestOwner, hw] <;> rfl

theorem exec_windowRequest_stop : exec (.windowRequest dt p [b, 2]) s = .next (answered p 0x30
    (Reply.of (applyStop w (portClass p) .stopRequest (atOwner dt p s)).2)
    (applyStop w (portClass p) .stopRequest (atOwner dt p s)).1) := by
  refine (onRequest_admitted dt p 0x30 [b, 2] windowRequestOwner hr ha (by simp)).trans ?_
  simp only [windowRequestOwner, hw]
  rfl

theorem exec_windowRequest_moveTo (hi lo : Byte) : exec (.windowRequest dt p [b, 3, hi, lo]) s = .next (answered p 0x30
    (Reply.of (moveTo p w (nat16 hi lo) (atOwner dt p s)).2) (moveTo p w (nat16 hi lo) (atOwner dt p s)).1) := by
  refine (onRequest_admitted dt p 0x30 [b, 3, hi, lo] windowRequestOwner hr ha (by simp)).trans ?_
  simp only [windowRequestOwner, hw]
  rfl

end

theorem atOwner_admission (dt : Time) (p : Port) (w : Win) (a : Asker) (d : WDir) (m : WMode) :
    (atOwner dt p s).admission w a d m = s.admission w a d m :=
  admission_congr (atOwner_windows dt p) (atOwner_crash dt p) w a d m

theorem atOwner_windowBarred (dt : Time) (p : Port) (w : Win) : (atOwner dt p s).windowBarred w = s.windowBarred w :=
  windowBarred_congr (atOwner_windows dt p) (atOwner_crash dt p) w

/-- Settles O36. -/
theorem windowRequested : Obligations.WindowRequested := by
  refine ⟨?start, fun dt p b w s hr ha hw => exec_windowRequest_stop p hr ha hw, ?moveTo,
    fun w s => windowBarred_eq w s, ?checks,
    fun p w d m s => ⟨fun x => portStart_refused p, portStart_still p, fun n => portStart_goes p⟩,
    rfl, rfl, rfl, rfl, rfl, rfl⟩
  case start =>
    intro dt p b a w d s hr ha hw h
    dsimp only
    rw [exec_windowRequest_start p hr ha hw h]
    refine ⟨fun m hm => ?_, fun hm => ?_, fun x hm => ?_⟩
    · rw [portStart_goes p ((atOwner_admission dt p w .port d .auto).trans hm)]
    · rw [portStart_still p ((atOwner_admission dt p w .port d .auto).trans hm)]
    · rw [portStart_refused p ((atOwner_admission dt p w .port d .auto).trans hm)]
  case moveTo =>
    intro dt p b hi lo w s hr ha hw
    dsimp only
    rw [exec_windowRequest_moveTo p hr ha hw hi lo]
    refine ⟨fun x h => ?_, fun h hn => ?_, fun h hn => ?_⟩
    · rw [moveTo_barred p _ ((atOwner_windowBarred dt p w).trans h)]
    · rw [moveTo_unlearned p _ ((atOwner_windowBarred dt p w).trans h) (by rw [atOwner_windows]; exact hn)]
    · rw [moveTo_learned p _ ((atOwner_windowBarred dt p w).trans h) (by rw [atOwner_windows]; exact hn)]
      simp only [moveTowards, atOwner_windows]
      rfl
  case checks =>
    intro w a d m s
    dsimp only
    refine ⟨fun b => admission_barred a d m, fun h hd => ?_, fun h hd => ?_⟩
    · rw [admission_open a d m h, hd]
      exact ⟨admission_up_restricted, admission_up_unlearned, admission_up_goes⟩
    · rw [admission_open a d m h, hd]
      exact ⟨admission_down_unlearned, admission_down_still, admission_down_learned, admission_down_unknown⟩

/-! ### NORMALIZE_WINDOW (R67, R86) -/

theorem normalizeOwner_crash {b : Byte} {w : Win} (p : Port) (hw : winOf b = some w) (h : s.crash.latched = true) :
    normalizeOwner p [b] s = (s, Reply.of .crashActive) := by
  simp only [normalizeOwner, hw, h, if_true]
  rfl

theorem normalizeOwner_busy {b : Byte} {w : Win} (p : Port) (hw : winOf b = some w) (h : ¬ s.crash.latched = true)
    (hr : (s.windows.get w).run ≠ .stopped ∧ (s.windows.get w).run ≠ .faulted) :
    normalizeOwner p [b] s = (s, Reply.of .busy) := by
  simp only [normalizeOwner, hw, if_neg h, if_pos hr]
  rfl

theorem normalizeOwner_starts {b : Byte} {w : Win} (p : Port) (hw : winOf b = some w) (h : ¬ s.crash.latched = true)
    (hr : ¬ ((s.windows.get w).run ≠ .stopped ∧ (s.windows.get w).run ≠ .faulted)) :
    normalizeOwner p [b] s = ((startNormalizing p w s).1, Reply.of .queued) := by
  simp only [normalizeOwner, hw, if_neg h, if_neg hr]
  rfl

theorem startNormalizing_eq (p : Port) (w : Win) (s : State) : startNormalizing p w s =
    (let u := unlearn w (s.modWindow w fun r => { r with fault := .none, reversals := 0, restricted := false })
     let v := u.modWindow w fun r =>
       { r with normPhase := .normUp, mode := some .auto, source := some .normalize, cls := some (portClass p)
                run := .queued }
     ((submit { act := .window w, dir := .up, cls := portClass p, source := .normalize, mode := some .auto
                group := none } v).1, .queued)) := by
  simp only [startNormalizing, submitWindow, setMovement, modWindow_modWindow]
  rfl

/-- The row queued as a window becomes UNLEARNED (R67, section 9.6). -/
theorem unlearn_row {w : Win} (h : (s.windows.get w).norm ≠ .unlearned) : unlearn w s = storeWrite (w.row 0)
    (padBytes 13 (be16 ((s.windows.get w).pmax.getD 0) ++ [0] ++ ((s.profiles.get w).toList.take 5).flatMap be16))
    (offer .normalizationChanged (s.modWindow w fun r => { r with norm := .unlearned })) := by
  rw [unlearn_of_learned h, writeProfileRow,
    (Records.offer .normalizationChanged (s.modWindow w fun r => { r with norm := .unlearned })).profileRow,
    State.profileRow, modWindow_get]
  rfl

/-- Settles O37. -/
theorem normalizationStarts : Obligations.NormalizationStarts := by
  refine ⟨?request, startNormalizing_eq, fun w s => ⟨unlearn_of_unlearned, unlearn_row⟩⟩
  intro dt p b w s hr ha hw
  refine (onRequest_admitted dt p 0x31 [b] normalizeOwner hr ha (by simp)).trans ?_
  by_cases hc : s.crash.latched = true
  · rw [if_pos hc, normalizeOwner_crash p hw (by rw [atOwner_crash]; exact hc)]
  have hc' : ¬ (atOwner dt p s).crash.latched = true := by rw [atOwner_crash]; exact hc
  rw [if_neg hc]
  by_cases hb : (s.windows.get w).run ≠ .stopped ∧ (s.windows.get w).run ≠ .faulted
  · rw [if_pos hb, normalizeOwner_busy p hw hc' (by rw [atOwner_windows]; exact hb)]
  · rw [if_neg hb, normalizeOwner_starts p hw hc' (by rw [atOwner_windows]; exact hb)]

end Sys2Proof.Machine
end

section
/-! The run computation at a Hall edge: period, threshold, count, zones, and learning at a TOP stop (R93, R96 to R102,
R110 to R113). -/

namespace Sys2Proof.Machine

variable {s : State}

/-! ### Period and smoothing (R95 to R98) -/

/-- The compensated period of an edge at `now` (R96). -/
def RunRec.period (r : RunRec) (now : Time) (vf : Nat) : Nat := compensate (min 65535 (now - r.edgeTime)) vf

/-- S after a period `tn` (R98). -/
def RunRec.smoothed (r : RunRec) (tn : Nat) : Nat :=
  match r.s with
  | none => tn
  | some x => smooth x tn

theorem RunRec.smoothed_first {r : RunRec} (h : r.s = none) (tn : Nat) : r.smoothed tn = tn := by
  simp only [RunRec.smoothed, h]

theorem RunRec.smoothed_next {r : RunRec} {x : Nat} (h : r.s = some x) (tn : Nat) :
    r.smoothed tn = (3 * x + tn + 2) / 4 := by
  simp only [RunRec.smoothed, h, smooth]

theorem RunRec.measure_eq (r : RunRec) (now : Time) (vf : Nat) : r.measure now vf =
    ({ r with n := min 65535 (r.n + 1), s := some (r.smoothed (r.period now vf)), edgeTime := now
              sStart := if min 65535 (r.n + 1) = 24 then some (r.smoothed (r.period now vf)) else r.sStart },
      r.period now vf) := rfl

/-! ### The test of a pulse (R99 to R102) -/

theorem RunRec.active_iff (r : RunRec) (p : Nat) :
    r.active p = true ↔ 25 ≤ r.n ∧ (r.absolute = true → r.pseal < p ∧ p ≤ r.pdetect) := by
  cases ha : r.absolute <;> simp [RunRec.active, ha]

theorem RunRec.threshold_free {r : RunRec} (ref : Nat) (h : r.restricted = false) :
    r.threshold ref = max 80 (ref * r.k / 256) := by
  simp [RunRec.threshold, h]

theorem RunRec.threshold_restricted {r : RunRec} (ref : Nat) (h : r.restricted = true) :
    r.threshold ref = 2 * max 80 (ref * r.k / 256) := by
  simp [RunRec.threshold, h]

/-- Within the limits of K and of a period, the threshold stays within 80 to 39422. -/
theorem RunRec.threshold_range {r : RunRec} {ref : Nat} (hk : r.k ≤ 77) (href : ref ≤ 65535) :
    80 ≤ r.threshold ref ∧ r.threshold ref ≤ 39422 := by
  have hm : ref * r.k ≤ 65535 * 77 := Nat.mul_le_mul href hk
  cases hr : r.restricted with
  | false => rw [threshold_free ref hr]; omega
  | true => rw [threshold_restricted ref hr]; omega

/-- A tested pulse whose S lies above reference plus threshold (R101). -/
def RunRec.exceeds (r : RunRec) (profile : Vector Nat 32) (p : Nat) : Bool :=
  r.active p && decide (r.reference profile p + r.threshold (r.reference profile p) < r.s.getD 0)

theorem RunRec.exceeds_iff (r : RunRec) (profile : Vector Nat 32) (p : Nat) : r.exceeds profile p = true ↔
    (25 ≤ r.n ∧ (r.absolute = true → r.pseal < p ∧ p ≤ r.pdetect))
      ∧ r.reference profile p + r.threshold (r.reference profile p) < r.s.getD 0 := by
  rw [RunRec.exceeds, Bool.and_eq_true, active_iff, decide_eq_true_eq]

theorem RunRec.judge_eq (r : RunRec) (profile : Vector Nat 32) (p : Nat) :
    r.judge profile p = { r with count := if r.exceeds profile p = true then r.count + 1 else 0 } := by
  unfold RunRec.judge RunRec.exceeds
  by_cases ha : r.active p = true
  · by_cases hx : r.reference profile p + r.threshold (r.reference profile p) < r.s.getD 0 <;> simp [ha, hx]
  · simp [ha]

theorem RunRec.confirmed_iff (r : RunRec) : r.confirmed = true ↔ 0 < r.count ∧ r.nconf ≤ r.count := by
  simp [RunRec.confirmed]

/-! ### Gathering (R111; log 35) -/

/-- The zones after a pulse with period `tn` at `p`. -/
def RunRec.zonesAfter (r : RunRec) (p : Nat) (moved : Bool) (tn : Nat) : Vector (Nat × Nat) 32 :=
  if 25 ≤ r.n ∧ moved = true ∧ r.zones[zoneOf p].2 < 64 then
    r.zones.set (zoneOf p) (r.zones[zoneOf p].1 + tn, r.zones[zoneOf p].2 + 1)
  else r.zones

/-- An opening pulse ends the eligibility for learning. -/
theorem RunRec.gather_eq (r : RunRec) (e : HallSense) (p : Nat) (moved : Bool) (tn : Nat) :
    r.gather e p moved tn = { r with learn := r.learn && e != .opening, zones := r.zonesAfter p moved tn } := by
  have hlearn : (if e = .opening then { r with learn := false } else r) = { r with learn := r.learn && e != .opening } := by
    cases e with
    | closing => show r = { r with learn := r.learn && true }; rw [Bool.and_true]
    | opening => show { r with learn := false } = { r with learn := r.learn && false }; rw [Bool.and_false]
  unfold RunRec.gather
  rw [hlearn]
  by_cases h : 25 ≤ r.n ∧ moved = true ∧ r.zones[zoneOf p].2 < 64
  · rw [if_pos h, zonesAfter, if_pos h]
  · rw [if_neg h, zonesAfter, if_neg h]

/-! ### The record after an edge -/

section
variable (r : RunRec) (now : Time) (vf : Nat) (profile : Vector Nat 32) (e : HallSense) (p : Nat) (m : Bool)

/-- The record of an edge measured and gathered, before it is judged. -/
def RunRec.gathered : RunRec := (r.measure now vf).1.gather e p m (r.measure now vf).2

theorem RunRec.gathered_eq : r.gathered now vf e p m =
    { (r.measure now vf).1 with
      learn := r.learn && e != .opening
      zones := (r.measure now vf).1.zonesAfter p m (r.period now vf) } := gather_eq _ _ _ _ _

theorem RunRec.edge_eq : r.edge now vf profile e p m =
    { r.gathered now vf e p m with
      count := if (r.gathered now vf e p m).exceeds profile p = true then r.count + 1 else 0 } := by
  have hcount : (r.gathered now vf e p m).count = r.count := by rw [gathered_eq]; rfl
  rw [← hcount]
  exact judge_eq _ _ _

theorem RunRec.edge_count : (r.edge now vf profile e p m).count =
    if (r.edge now vf profile e p m).exceeds profile p = true then r.count + 1 else 0 := by
  rw [edge_eq]
  rfl

/-- What an edge makes of the smoothed period and its count (R95 to R98). -/
theorem RunRec.edge_measured : (r.edge now vf profile e p m).n = min 65535 (r.n + 1)
    ∧ (r.edge now vf profile e p m).edgeTime = now
    ∧ (r.edge now vf profile e p m).s = some (r.smoothed (r.period now vf))
    ∧ (r.edge now vf profile e p m).sStart =
        if (r.edge now vf profile e p m).n = 24 then (r.edge now vf profile e p m).s else r.sStart := by
  rw [edge_eq, gathered_eq, measure_eq]
  exact ⟨rfl, rfl, rfl, rfl⟩

/-- What an edge gathers for learning (R111). -/
theorem RunRec.edge_gathered : (r.edge now vf profile e p m).learn = (r.learn && e != .opening)
    ∧ (r.edge now vf profile e p m).zones =
        if 25 ≤ (r.edge now vf profile e p m).n ∧ m = true ∧ r.zones[zoneOf p].2 < 64 then
          r.zones.set (zoneOf p) (r.zones[zoneOf p].1 + r.period now vf, r.zones[zoneOf p].2 + 1)
        else r.zones := by
  rw [edge_eq, gathered_eq]
  exact ⟨rfl, rfl⟩

/-- What a record captured at its start stays through an edge (R93). -/
theorem RunRec.edge_captured : (r.edge now vf profile e p m).k = r.k ∧ (r.edge now vf profile e p m).nconf = r.nconf
    ∧ (r.edge now vf profile e p m).pseal = r.pseal ∧ (r.edge now vf profile e p m).pdetect = r.pdetect
    ∧ (r.edge now vf profile e p m).dist = r.dist ∧ (r.edge now vf profile e p m).absolute = r.absolute
    ∧ (r.edge now vf profile e p m).restricted = r.restricted
    ∧ (r.edge now vf profile e p m).inRange = r.inRange := by
  rw [edge_eq, gathered_eq]
  exact ⟨rfl, rfl, rfl, rfl, rfl, rfl, rfl, rfl⟩

/-- The test of an edge, with the reference and the threshold of the record before it. -/
theorem RunRec.edge_exceeds_iff : (r.edge now vf profile e p m).exceeds profile p = true ↔
    (25 ≤ (r.edge now vf profile e p m).n ∧ (r.absolute = true → r.pseal < p ∧ p ≤ r.pdetect))
      ∧ (r.edge now vf profile e p m).reference profile p
          + r.threshold ((r.edge now vf profile e p m).reference profile p) < (r.edge now vf profile e p m).s.getD 0 := by
  rw [exceeds_iff, edge_eq, gathered_eq]
  exact Iff.rfl

theorem RunRec.edge_reference : (r.edge now vf profile e p m).reference profile p =
    if r.absolute = true ∧ profile[zoneOf p] ≠ 0 then profile[zoneOf p]
    else (r.edge now vf profile e p m).sStart.getD 0 := by
  rw [edge_eq, gathered_eq]
  rfl

end

theorem handEdge_run {w : Win} {r : RunRec} {v : Nat} (e : HallSense) (m : Bool) (hr : (s.pinch.get w).run = some r)
    (hv : s.supply.vf = some v) : ((handEdge w e m s).pinch.get w).run =
      some (r.edge s.now v (s.profiles.get w) e (s.windows.get w).p m) := by
  rw [handEdge, modPinch_get, hr, hv]
  rfl

theorem pinchConfirmed_iff {w : Win} {r : RunRec} (h : (s.pinch.get w).run = some r) :
    s.pinchConfirmed w = true ↔ 0 < r.count ∧ r.nconf ≤ r.count := by
  rw [State.pinchConfirmed, h]
  exact r.confirmed_iff

/-! ### The record as a run begins (R93) -/

theorem supplyInRange_iff (vf : Option Nat) :
    supplyInRange vf = true ↔ ∃ v, vf = some v ∧ 10500 ≤ v ∧ v ≤ 15500 := by
  cases vf with
  | none => simp [supplyInRange]
  | some v => simp [supplyInRange]

/-- An UP run begins with the record of the window and the configuration as they stand. -/
theorem startRun_run (w : Win) (s : State) : ((startRun w .up s).pinch.get w).run = some (newRun w s) := by
  cases w <;> rfl

/-! ### Learning at a TOP stop (R110, R112) -/

theorem learnAtTop_learns {w : Win} {r : RunRec} (h : (s.pinch.get w).run = some r)
    (hl : r.learn = true ∧ r.inRange = true ∧ (s.windows.get w).norm = .learned) :
    learnAtTop w s = updateProfile w (r.learned (s.profiles.get w)) s := by
  simp only [learnAtTop, h]
  exact if_pos hl

theorem learnAtTop_skips {w : Win} {r : RunRec} (h : (s.pinch.get w).run = some r)
    (hl : ¬ (r.learn = true ∧ r.inRange = true ∧ (s.windows.get w).norm = .learned)) : learnAtTop w s = s := by
  simp only [learnAtTop, h]
  exact if_neg hl

theorem RunRec.learned_get (r : RunRec) (t : Vector Nat 32) (z : Fin 32) :
    (r.learned t)[z] = if r.zones[z].2 = 64 then learnEntry t[z] r.zones[z].1 else t[z] :=
  tableOf_get 32 _ z

section
variable {ref : Nat} (sum : Nat)

theorem learnEntry_unset : learnEntry 0 sum = max 200 (min (sum / 64) 20000) := rfl

/-- A mean within a quarter of the entry moves it by an eighth of the difference. -/
theorem learnEntry_near (h : ref ≠ 0)
    (hq : max (max 200 (min (sum / 64) 20000)) ref - min (max 200 (min (sum / 64) 20000)) ref ≤ ref / 4) :
    learnEntry ref sum = (7 * ref + max 200 (min (sum / 64) 20000) + 4) / 8 :=
  (if_neg h).trans (if_pos hq)

theorem learnEntry_far (h : ref ≠ 0)
    (hq : ref / 4 < max (max 200 (min (sum / 64) 20000)) ref - min (max 200 (min (sum / 64) 20000)) ref) :
    learnEntry ref sum = ref :=
  (if_neg h).trans (if_neg (Nat.not_le_of_lt hq))

end

/-! ### The rows of a new profile (R113) -/

/-- Entries that are stored alike hold the same bytes one by one. -/
theorem map_be16_of_flatMap_eq : ∀ {l k : List Nat}, l.length = k.length → l.flatMap be16 = k.flatMap be16 →
    l.map be16 = k.map be16
  | [], [], _, _ => rfl
  | x :: l, y :: k, hl, h => by
    rw [List.flatMap_cons, List.flatMap_cons] at h
    obtain ⟨hx, ht⟩ := List.append_inj h rfl
    rw [List.map_cons, List.map_cons, hx, map_be16_of_flatMap_eq (Nat.succ.inj hl) ht]

/-- A row stored alike holds each of its entries alike. -/
theorem be16_of_refBytes_eq {a b : Vector Nat 32} {span : Nat × Nat} (h : refBytes a span = refBytes b span)
    {z : Fin 32} (hz : span.1 ≤ z) (hz' : z < span.1 + span.2) : be16 a[z] = be16 b[z] := by
  have hmap := map_be16_of_flatMap_eq (by simp) h
  have hget := congrArg (·[z.val - span.1]?) hmap
  have hi : z.val - span.1 < span.2 := by omega
  have hadd : span.1 + (z.val - span.1) = z := by omega
  simpa [List.getElem?_take, hi, hadd] using hget

/-- The rows of a profile in which an entry changes. -/
def changedRows (old new : Vector Nat 32) : List Nat :=
  (List.range 6).filter fun r => refBytes old (refSpan r) != refBytes new (refSpan r)

theorem updateProfile_eq (w : Win) (new : Vector Nat 32) (s : State) :
    updateProfile w new s = writeRows w (changedRows (s.profiles.get w) new) (s.setProfile w new) := by
  rw [writeRows, changedRows, List.foldl_filter, updateProfile]
  simp

theorem updateProfile_profile (w : Win) (new : Vector Nat 32) (s : State) :
    (updateProfile w new s).profiles.get w = new := by
  rw [(Records.updateProfile w new s).profiles]
  exact Wins.get_set_self _ _ _

theorem refSpan_end {r : Nat} (h : r < 6) : (refSpan r).1 + (refSpan r).2 ≤ 32 := by
  interval_cases r <;> decide

theorem mem_changedRows {old new : Vector Nat 32} {r z : Nat} (hr : r < 6) (hz : (refSpan r).1 ≤ z)
    (hz' : z < (refSpan r).1 + (refSpan r).2) (h : be16 old[Fin.ofNat 32 z] ≠ be16 new[Fin.ofNat 32 z]) :
    r ∈ changedRows old new := by
  have hval : (Fin.ofNat 32 z).val = z := Nat.mod_eq_of_lt (Nat.lt_of_lt_of_le hz' (refSpan_end hr))
  refine List.mem_filter.2 ⟨List.mem_range.2 hr, bne_iff_ne.2 fun heq => h ?_⟩
  exact be16_of_refBytes_eq heq (by rw [hval]; exact hz) (by rw [hval]; exact hz')

/-- Settles O31. -/
theorem periodMeasured : Obligations.PeriodMeasured := by
  refine ⟨?measured, fun r ref => ⟨RunRec.threshold_free ref, RunRec.threshold_restricted ref, RunRec.threshold_range⟩,
    ?judged, ?begun, ?decided, ?learned, ?queued⟩
  case measured =>
    intro w e m s r v hr hv
    obtain ⟨hn, ht, hs, -⟩ := r.edge_measured s.now v (s.profiles.get w) e (s.windows.get w).p m
    refine ⟨_, handEdge_run e m hr hv, hn, ht, fun x hx => ?_, fun hx => ?_⟩
    · rw [hs, RunRec.smoothed_next hx]; rfl
    · rw [hs, RunRec.smoothed_first hx]; rfl
  case judged =>
    intro w e m s r r' v hr hv hr'
    have hedge : r.edge s.now v (s.profiles.get w) e (s.windows.get w).p m = r' :=
      Option.some.inj ((handEdge_run e m hr hv).symm.trans hr')
    have hcount := r.edge_count s.now v (s.profiles.get w) e (s.windows.get w).p m
    have hexceeds := r.edge_exceeds_iff s.now v (s.profiles.get w) e (s.windows.get w).p m
    have hzone := r.edge_gathered s.now v (s.profiles.get w) e (s.windows.get w).p m
    have hcaptured := r.edge_captured s.now v (s.profiles.get w) e (s.windows.get w).p m
    obtain ⟨-, -, -, hstart⟩ := r.edge_measured s.now v (s.profiles.get w) e (s.windows.get w).p m
    rw [RunRec.edge_reference] at hexceeds
    rw [hedge] at hcount hexceeds hzone hcaptured hstart
    obtain ⟨hlearn, hzones⟩ := hzone
    obtain ⟨hk, hnconf, hpseal, hpdetect, hdist, habs, hrestricted, hrange⟩ := hcaptured
    refine ⟨hstart, fun ht hx => ?_, fun hx => ?_, hlearn, fun hn hm hz => ?_, fun hx => ?_, hk, hnconf, hpseal, hpdetect,
      hdist, habs, hrestricted, hrange, ?_⟩
    · rw [hcount, if_pos (hexceeds.2 ⟨ht, hx⟩)]
    · rw [hcount, if_neg (mt hexceeds.1 hx)]
    · exact hzones.trans (if_pos ⟨hn, hm, hz⟩)
    · refine hzones.trans (if_neg ?_)
      rintro ⟨hn, hm, hz⟩
      rcases hx with hx | hx | hx
      · omega
      · exact absurd (hm.symm.trans hx) (by decide)
      · exact absurd hz (Nat.not_lt_of_le hx)
    · rw [pinchConfirmed_iff hr', hnconf]
  case begun =>
    intro w s
    exact ⟨newRun w s, startRun_run w s, rfl, rfl, rfl, rfl, rfl, rfl, rfl, rfl, rfl, rfl, rfl, rfl, rfl, rfl,
      supplyInRange_iff _⟩
  case decided =>
    refine fun w s => ⟨fun r hr hl hi hn => learnAtTop_learns hr ⟨hl, hi, hn⟩, fun r hr hx => learnAtTop_skips hr ?_⟩
    rintro ⟨hl, hi, hn⟩
    rcases hx with hx | hx | hx
    · exact absurd (hl.symm.trans hx) (by decide)
    · exact absurd (hi.symm.trans hx) (by decide)
    · exact hx hn
  case learned =>
    intro r t z
    dsimp only
    rw [RunRec.learned_get]
    refine ⟨fun hz => if_neg hz, fun hz h0 => ?_, fun hz h0 hq => ?_, fun hz h0 hq => ?_⟩
    · rw [if_pos hz, h0, learnEntry_unset]
    · rw [if_pos hz, learnEntry_near _ h0 hq]
    · rw [if_pos hz, learnEntry_far _ h0 hq]
  case queued =>
    refine fun w t s => ⟨updateProfile_profile w t s, fun r hr hv => ?_⟩
    rintro ⟨z, hz, hz', hne⟩
    rw [updateProfile_eq]
    exact writeRows_queues w (mem_changedRows hr hz hz' hne) hv

end Sys2Proof.Machine
end

section
/-! The fob table along a step, the counter test, and the telegrams rejected (R114, R118 to R124, R143). -/

namespace Sys2Proof.Machine

variable {s : State}

/-! ### The fob table along a step (R114, R120, R143) -/

/-- A chain of changes keeps the facts of the fob table: the changes of that block do, and a reset leaves no slot
enrolled. -/
theorem Chain.fobsKept {s t : State} (h : Chain s t) : FobsKept s.fobs t.fobs := by
  induction h with
  | refl => exact ⟨id, id⟩
  | fobs _ _ k ih => exact ⟨fun hd => k.1 (ih.1 hd), fun hc => k.2 (ih.2 hc)⟩
  | reset => exact ⟨fun _ => fobsDistinct_afterReset _ _ _ _ _, fun _ => ceilingAhead_afterReset _ _ _ _ _⟩
  | _ => assumption

/-- Settles O8: each bound is kept along the chain of changes that a step is. -/
theorem fobTableKept : Obligations.FobTableKept := by
  intro s t hd hc h
  obtain ⟨q, k⟩ := step_kept h
  obtain ⟨distinct, ahead⟩ := k.chain.fobsKept
  exact ⟨distinct hd, ahead hc⟩

/-! ### The counter test (R119) -/

/-- The window W is one byte of the image in units of 8 (section 9.6). -/
theorem window_le (img : Image) : img.window ≤ 2040 := by
  have := (img.toList.getD 10 0#8).isLt
  unfold Image.window Image.byte
  omega

theorem pairGap_some {c q : Word32} : pairGap c (some q) = true ↔ c = q + 1 ∨ c = q + 2 := by
  simp only [pairGap, counterDistance, Bool.or_eq_true, beq_iff_eq]
  bv_omega

section
variable {k : SlotId} {c : Word32} (b : Button) (n : Nat)

/-- At the last accepted counter (R119). -/
theorem judgeTelegram_again (h : (c - (s.fobs.get k).counter).toNat = 0) : s.judgeTelegram k c b n =
    if 0 < n ∧ (s.fobs.get k).press.any (·.button == b) ∧ s.follows k then .repeated else .stale := if_pos h

/-- Up to W beyond it (R119). -/
theorem judgeTelegram_near (h : 1 ≤ (c - (s.fobs.get k).counter).toNat)
    (hw : (c - (s.fobs.get k).counter).toNat ≤ s.cfg.window) : s.judgeTelegram k c b n = .accepted :=
  (if_neg (Nat.ne_of_gt h)).trans (if_pos hw)

/-- Beyond W, up to 32768 (R119). -/
theorem judgeTelegram_far (hw : s.cfg.window < (c - (s.fobs.get k).counter).toNat)
    (h : (c - (s.fobs.get k).counter).toNat ≤ 32768) : s.judgeTelegram k c b n =
    if pairGap c (s.fobs.get k).resync then .resynced else .resyncPending :=
  (if_neg (Nat.ne_of_gt (Nat.zero_lt_of_lt hw))).trans ((if_neg (Nat.not_le_of_lt hw)).trans (if_pos h))

/-- Behind it (R119). -/
theorem judgeTelegram_behind (h : 32768 < (c - (s.fobs.get k).counter).toNat) : s.judgeTelegram k c b n = .stale := by
  have hw : ¬ (c - (s.fobs.get k).counter).toNat ≤ s.cfg.window := by
    have := window_le s.cfg
    omega
  exact (if_neg (Nat.ne_of_gt (Nat.zero_lt_of_lt h))).trans ((if_neg hw).trans (if_neg (Nat.not_le_of_lt h)))

end

/-- Settles O38: one equation of the counter test for each range of the distance. -/
theorem counterJudged : Obligations.CounterJudged := by
  intro k c b n s
  dsimp only
  refine ⟨judgeTelegram_near b n, fun hw h hq => ?unpaired, fun q hw h hq hc => ?paired,
    fun q hw h hq hc1 hc2 => ?gapless, judgeTelegram_behind b n, fun h hn => ?first, fun h hn hf hp => ?repeated,
    fun h hx => ?unfollowed, window_le s.cfg⟩
  case unpaired =>
    rw [judgeTelegram_far b n hw h, hq]
    rfl
  case paired => rw [judgeTelegram_far b n hw h, hq, if_pos (pairGap_some.2 hc)]
  case gapless =>
    rw [judgeTelegram_far b n hw h, hq, if_neg (mt pairGap_some.1 (not_or.2 ⟨hc1, hc2⟩))]
  case first => rw [judgeTelegram_again b n h, if_neg fun e => absurd e.1 (by omega)]
  case repeated => rw [judgeTelegram_again b n h, if_pos ⟨hn, hp, hf⟩]
  case unfollowed =>
    rw [judgeTelegram_again b n h, if_neg]
    rintro ⟨-, hp, hf⟩
    obtain hx | hx := hx
    · exact absurd (hf.symm.trans hx) (by decide)
    · exact absurd (hp.symm.trans hx) (by decide)

/-! ### Telegrams rejected (R118, R121, R123, R124) -/

section
variable {i c : Word32} {b : Button} {n : Nat} {k : SlotId} (p : Port)

theorem takeTelegram_unknown (hf : s.findFob i = none) : takeTelegram p i c b n s =
    (offer .telegramRejected s, { result := .unknownFob, payload := [0xFF, 0xFF, 0] }) := by
  simp only [takeTelegram, hf]

theorem takeTelegram_suspended (hf : s.findFob i = some k) (hs : (s.fobs.get k).state = .suspended) :
    takeTelegram p i c b n s = rejectPress k .fobSuspended (fun f => { f with verdict := .suspended }) s := by
  simp only [takeTelegram, hf, if_pos hs]

theorem takeTelegram_pending (hf : s.findFob i = some k) (hs : (s.fobs.get k).state ≠ .suspended)
    (hj : s.judgeTelegram k c b n = .resyncPending) : takeTelegram p i c b n s =
    rejectPress k .resyncPending (fun f => { f with resync := some c, verdict := .resyncPending }) s := by
  simp only [takeTelegram, hf, if_neg hs, hj]

theorem takeTelegram_stale (hf : s.findFob i = some k) (hs : (s.fobs.get k).state ≠ .suspended)
    (hj : s.judgeTelegram k c b n = .stale) : takeTelegram p i c b n s =
    rejectPress k .stale (fun f => { f with failures := min 255 (f.failures + 1), verdict := .stale }) s := by
  simp only [takeTelegram, hf, if_neg hs, hj]

end

/-- A telegram with a listed button and repeat index, as the access unit answers it (R117). -/
theorem exec_telegram_read {dt : Time} {p : Port} {b n : Byte} {button : Button} (i3 i2 i1 i0 c3 c2 c1 c0 : Byte)
    (hr : Receiving s p) (ha : Admitted s p 4) (hb : buttonOf b = some button) (hn : n.toNat ≤ 15) :
    exec (.accessTelegram dt p [i3, i2, i1, i0, c3, c2, c1, c0, b, n]) s =
      (let x := takeTelegram p (word32 i3 i2 i1 i0) (word32 c3 c2 c1 c0) button n.toNat (atOwner dt p s)
       .next (answered p 0x40 x.2 x.1)) := by
  rw [exec_accessTelegram, onRequest_admitted dt p 0x40 _ _ hr ha (by simp), telegramOwner_read p _ _ _ _ _ _ _ _ hb hn]

/-- Settles O39. -/
theorem telegramRejected : Obligations.TelegramRejected := by
  intro dt p i3 i2 i1 i0 c3 c2 c1 c0 b n button s hr ha hb hn
  dsimp only
  rw [exec_telegram_read i3 i2 i1 i0 c3 c2 c1 c0 hr ha hb hn, ← atOwner_findFob dt p]
  refine ⟨fun hf => ?unknown, fun k hf => ?found⟩
  case unknown => rw [takeTelegram_unknown p hf]
  case found =>
    rw [← atOwner_fobs (s := s) dt p, ← atOwner_judgeTelegram dt p]
    refine ⟨fun hs => ?suspended, fun hs hj => ?pending, fun hs hj => ?stale⟩
    case suspended => rw [takeTelegram_suspended p hf hs]; rfl
    case pending => rw [takeTelegram_pending p hf hs hj]; rfl
    case stale => rw [takeTelegram_stale p hf hs hj]; rfl

end Sys2Proof.Machine
end

section
/-! The operand bytes of the requests and their lists: a byte has no value exactly when it lies outside its list. -/

namespace Sys2Proof.Machine

variable {b : Byte}

theorem some_else_eq_none {α : Type} {c : Prop} [Decidable c] {x : α} {y : Option α} :
    (if c then some x else y) = none ↔ ¬ c ∧ y = none := by
  by_cases h : c <;> simp [h]

theorem boolOf_eq_none : boolOf b = none ↔ 1 < b.toNat := by
  simp only [boolOf, some_else_eq_none, and_true]
  bv_omega

theorem modeOf_eq_none : modeOf b = none ↔ 1 < b.toNat := by
  simp only [modeOf, some_else_eq_none, and_true]
  bv_omega

theorem originClass_eq_none : originClass b = none ↔ 1 < b.toNat := by
  simp only [originClass, some_else_eq_none, and_true]
  bv_omega

theorem buttonOf_eq_none : buttonOf b = none ↔ 2 < b.toNat := by
  simp only [buttonOf, some_else_eq_none, and_true]
  bv_omega

theorem winOf_eq_none : winOf b = none ↔ 3 < b.toNat := by
  simp only [winOf, some_else_eq_none, and_true]
  bv_omega

theorem zoneByteOf_eq_none : zoneByteOf b = none ↔ 3 < b.toNat := by
  simp only [zoneByteOf, some_else_eq_none, and_true]
  bv_omega

theorem slotOf_eq_none : slotOf b = none ↔ 5 < b.toNat := by
  simp only [slotOf, some_else_eq_none, and_true]
  bv_omega

theorem boolOf_of_listed (h : b = 0 ∨ b = 1) : ∃ v, boolOf b = some v := by
  obtain rfl | rfl := h <;> exact ⟨_, rfl⟩

end Sys2Proof.Machine
end

section
/-! Passive triggers, the search record and the search results (R132 to R140). -/

namespace Sys2Proof.Machine

variable {s : State}

/-! ### Passive triggers (R132, R134) -/

/-- The conditions under which a passive trigger starts a search in RUN (R132). -/
abbrev State.searchable (s : State) : Prop :=
  s.cfg.passiveEnable = true ∧ s.ctx.ignition = .off ∧ s.crash.latched = false ∧ s.search.state ≠ .inFlight

/-- A passive trigger in RUN (R132). -/
theorem takeTrigger_run (o : Origin) (h : s.sys.mode = .run) :
    takeTrigger o s = if s.searchable then startSearch o s else s := by
  simp only [takeTrigger, State.searchable, h, true_and]

/-- The search record of a search that has started (R134). -/
theorem startSearch_search (o : Origin) (s : State) : (startSearch o s).search =
    { state := .inFlight, seq := s.search.seq + 1, origin := some o, timeout := some s.cfg.searchTimeout
      due := some (s.now + msec (10 * s.cfg.searchTimeout)), outcome := none, slot := none, zone := none
      inside := none, action := .none, group := 0 } := (Records.offer .searchPending _).search

theorem exec_passiveTrigger (dt : Time) (x : Touch) (b : Bool) (h : Awake s) : exec (.passiveTrigger dt x b) s =
    .next (refreshPark (if b then takeTrigger (touchOrigin x) (advance dt s) else advance dt s)) :=
  onMaskedInput_awake dt (touchBit x) id (fun s => if b then takeTrigger (touchOrigin x) s else s) h

theorem exec_tgButtonPress (dt : Time) (b : Bool) (h : Awake s) : exec (.tgButtonPress dt b) s =
    .next (refreshPark (if b then takeTgButton (advance dt s) else advance dt s)) :=
  onMaskedInput_awake dt 4 id (fun s => if b then takeTgButton s else s) h

/-- TG_BUTTON asks for a release of an unlocked tailgate and is a passive trigger for any other (R52, R132). -/
theorem takeTgButton_eq (s : State) : takeTgButton s =
    if (s.latches.get .tg).state = .unlocked then
      (if s.effSpeed = .moving then s
       else (submit { act := .release, dir := .release, cls := .access, source := .tgButton, mode := none
                      group := none } s).1)
    else takeTrigger .tg s := by
  unfold takeTgButton releaseRequest
  exact if_congr Iff.rfl (apply_ite Prod.fst _ _ _) rfl

/-- Settles O42. -/
theorem passiveTriggers : Obligations.PassiveTriggers := by
  refine ⟨fun dt x s h => ?touch, fun dt s h => ?button, fun dt x s h => ?idle, fun o s => ?started, rfl⟩
  case touch =>
    rw [exec_passiveTrigger dt x true h, if_pos rfl, takeTrigger_run _ (by exact h.2)]
    rfl
  case button =>
    rw [exec_tgButtonPress dt true h, if_pos rfl, takeTgButton_eq, takeTrigger_run _ (by exact h.2)]
    rfl
  case idle => exact ⟨exec_passiveTrigger dt x false h, exec_tgButtonPress dt false h⟩
  case started => exact ⟨_, rfl, by rw [startSearch_search]; exact ⟨rfl, rfl, rfl, rfl⟩⟩

/-! ### READ_SEARCH and the timeout (R135, R140) -/

/-- A request whose owner answers it without effect. -/
theorem onRequest_unchanged {dt : Time} {p : Port} {c : Byte} {l : List Byte} {f : Owner} {r : Reply}
    (hr : Receiving s p) (ha : Admitted s p (groupOfCode c)) (hl : l.length ≤ 14)
    (h : f p l (atOwner dt p s) = (atOwner dt p s, r)) :
    onRequest dt p c l f s = .next (answered p c r (atOwner dt p s)) := by
  rw [onRequest_admitted dt p c l f hr ha hl, h]

theorem exec_readSearch (dt : Time) (p : Port) (l : List Byte) (s : State) :
    exec (.readSearch dt p l) s = onRequest dt p 0x41 l readSearchOwner s := rfl

theorem readSearchOwner_inFlight {o : Origin} (p : Port) (h : s.search.state = .inFlight)
    (ho : s.search.origin = some o) :
    readSearchOwner p [] s = (s, { result := .ok, payload := [s.search.seq, originCode o] }) := by
  simp only [readSearchOwner, h, ho, ne_eq, not_true_eq_false, if_false]

theorem readSearchOwner_idle (p : Port) (h : s.search.state ≠ .inFlight) :
    readSearchOwner p [] s = refuse .ok s := by
  simp only [readSearchOwner, ne_eq, not_true_eq_false, if_false]
  split
  next hs _ => exact absurd hs h
  next => rfl

/-- Settles O43. -/
theorem searchReadAndTimedOut : Obligations.SearchReadAndTimedOut := by
  refine ⟨fun dt p o s hr ha h ho => ?inFlight, fun dt p s hr ha h => ?idle, fun d s h => ?timeout⟩
  case inFlight =>
    rw [exec_readSearch, ← atOwner_search (s := s) dt p]
    exact onRequest_unchanged hr ha (by simp)
      (readSearchOwner_inFlight p (by rw [atOwner_search]; exact h) (by rw [atOwner_search]; exact ho))
  case idle =>
    exact onRequest_unchanged hr ha (by simp) (readSearchOwner_idle p (by rw [atOwner_search]; exact h))
  case timeout =>
    show onTimer s.search.due (endSearch .timeout none none none) s = _
    rw [h, onTimer_due]
    rfl

/-! ### SEARCH_RESULT (R136 to R139) -/

theorem exec_searchResult (dt : Time) (p : Port) (l : List Byte) (s : State) :
    exec (.searchResult dt p l) s = onRequest dt p 0x42 l searchResultOwner s := rfl

theorem takeResult_late {q : Byte} (p : Port) (found : Option (Word32 × Zone)) (inside : Bool)
    (h : s.search.state ≠ .inFlight ∨ s.search.seq ≠ q) : takeResult p q found inside s = refuse .late s := by
  unfold takeResult
  split
  next hs _ => rw [if_neg (h.resolve_left (not_not.2 hs))]
  next => rfl

theorem takeResult_matched {o : Origin} (p : Port) (found : Option (Word32 × Zone)) (inside : Bool)
    (h : s.search.state = .inFlight) (ho : s.search.origin = some o) :
    takeResult p s.search.seq found inside s = matchResult p o found inside s := by
  simp only [takeResult, h, ho, if_true]

/-- The short form carries that no fob was found (R136). -/
theorem searchResultOwner_notFound {x : Byte} {b : Bool} (p : Port) (q : Byte) (hb : boolOf x = some b) :
    searchResultOwner p [q, 1, x] s = takeResult p q none b s := by
  simp only [searchResultOwner, hb, if_true]

/-- The long form carries the fob and the zone found (R136). -/
theorem searchResultOwner_found {x zone : Byte} {b : Bool} {z : Zone} (p : Port) (q i3 i2 i1 i0 : Byte)
    (hb : boolOf x = some b) (hz : zoneByteOf zone = some z) : searchResultOwner p [q, 0, x, i3, i2, i1, i0, zone] s =
      takeResult p q (some (word32 i3 i2 i1 i0, z)) b s := by
  simp only [searchResultOwner, hb, hz, if_true]

/-- The end of a search leaves the fob table, in which the fob found is judged (R137). -/
theorem endSearch_fobs (c : SearchOutcome) (k : Option SlotId) (z : Option Zone) (i : Option Bool) (s : State) :
    (endSearch c k z i s).fobs = s.fobs := (Records.offer .searchEnded _).fobs

/-- The slot that the fob of a result is looked up in (R137). -/
def resultSlot (found : Option (Word32 × Zone)) (s : State) : Option SlotId := found.bind fun f => s.findFob f.1

/-- The search ended by a result (R137). -/
def resultEnded (found : Option (Word32 × Zone)) (inside : Bool) (s : State) : State :=
  endSearch (if found.isSome then .found else .notFound) (resultSlot found s) (found.map (·.2)) (some inside) s

/-- The slot byte of the answer (R137). -/
def foundByte : Option SlotId → Byte
  | some k => byteOf k.index
  | none => 0xFF

/-- The search ended by a result without an action (R138, R139). -/
def endedWithout (a : SearchAction) (found : Option (Word32 × Zone)) (inside : Bool) (s : State) : State :=
  let u := resultEnded found inside s
  u.withSearch { u.search with action := a, group := 0 }

theorem isLockOrigin_iff {o : Origin} : isLockOrigin o = true ↔ o = .flLock ∨ o = .frLock := by
  cases o <;> simp [isLockOrigin]

section
variable {o : Origin} (p : Port) (found : Option (Word32 × Zone)) {inside : Bool}

/-- A lock origin with a fob inside ends in KEY_INSIDE, whatever was found (R138). -/
theorem matchResult_keyInside (ho : o = .flLock ∨ o = .frLock) : matchResult p o found true s =
    (patternRequest 3 (offer .keyInside (endedWithout .keyInside found true s)),
      { result := .ok, payload := [foundByte (resultSlot found s), 0xFF, 0] }) := by
  have h : (isLockOrigin o && true) = true := by rw [isLockOrigin_iff.2 ho]; rfl
  simp only [matchResult, judgeResult, if_pos h]
  unfold foundByte
  rfl

theorem not_keyInside (hi : o = .flLock ∨ o = .frLock → inside = false) : ¬ (isLockOrigin o && inside) = true := by
  intro h
  obtain ⟨hl, hb⟩ := Bool.and_eq_true_iff.1 h
  exact absurd (hb.symm.trans (hi (isLockOrigin_iff.1 hl))) (by decide)

/-- A result refused ends the search with what refuses it (R138, R139). -/
theorem matchResult_refused {a : SearchAction} (hi : o = .flLock ∨ o = .frLock → inside = false)
    (h : (resultEnded found inside s).searchRefusal o (resultSlot found s) (found.map (·.2)) found.isSome = some a) :
    matchResult p o found inside s =
      (endedWithout a found inside s, { result := .ok, payload := [foundByte (resultSlot found s), 0xFF, 0] }) := by
  unfold resultEnded resultSlot at h
  simp only [matchResult, judgeResult, if_neg (not_keyInside hi), h]
  unfold foundByte
  rfl

/-- Any other result is carried out by the passive action of the slot's mode (R138, R139). -/
theorem matchResult_acts {k : SlotId} (hi : o = .flLock ∨ o = .frLock → inside = false)
    (hk : resultSlot found s = some k)
    (h : (resultEnded found inside s).searchRefusal o (some k) (found.map (·.2)) found.isSome = none) :
    matchResult p o found inside s =
      (let x := passiveAction p o (s.fobs.get k).mode (resultEnded found inside s)
       (x.1.withSearch { x.1.search with action := .code x.2.1, group := x.2.2 },
        { result := .ok, payload := [byteOf k.index, x.2.1.code, byteOf x.2.2] })) := by
  unfold resultEnded at h
  rw [hk] at h
  have hm : ((resultEnded found inside s).fobs.get k).mode = (s.fobs.get k).mode := by
    rw [resultEnded, endSearch_fobs]
  rw [← hm]
  unfold resultEnded
  rw [hk]
  unfold resultSlot at hk
  simp only [matchResult, judgeResult, if_neg (not_keyInside hi), hk, h]
  rfl

end

/-! The slot found, and what refuses a result: both read the fob table alone (R137 to R139). -/

theorem atOwner_resultSlot (dt : Time) (p : Port) (i : Word32) (z : Zone) :
    resultSlot (some (i, z)) (atOwner dt p s) = s.findFob i := atOwner_findFob dt p i

theorem atOwner_resultEnded (dt : Time) (p : Port) (i : Word32) (z : Zone) (inside : Bool) :
    resultEnded (some (i, z)) inside (atOwner dt p s) =
      endSearch .found (s.findFob i) (some z) (some inside) (atOwner dt p s) := by
  rw [resultEnded, atOwner_resultSlot]
  rfl

theorem searchRefusal_resultEnded (dt : Time) (p : Port) (o : Origin) (found : Option (Word32 × Zone)) (inside : Bool)
    (k : Option SlotId) (z : Option Zone) (f : Bool) :
    (resultEnded found inside (atOwner dt p s)).searchRefusal o k z f = s.searchRefusal o k z f := by
  simp only [State.searchRefusal, resultEnded, endSearch_fobs, atOwner_fobs]

section
variable {o : Origin} {k : SlotId} {z : Zone}

theorem searchRefusal_notFound (o : Origin) (k : Option SlotId) (z : Option Zone) :
    s.searchRefusal o k z false = some .noFob := rfl

theorem searchRefusal_unknown (o : Origin) (z : Option Zone) :
    s.searchRefusal o none z true = some (.code .unknownFob) := rfl

theorem searchRefusal_suspended (o : Origin) (z : Option Zone) (h : (s.fobs.get k).state = .suspended) :
    s.searchRefusal o (some k) z true = some (.code .fobSuspended) := if_pos h

theorem searchRefusal_elsewhere (h : (s.fobs.get k).state ≠ .suspended) (hz : z ≠ matchingZone o) :
    s.searchRefusal o (some k) (some z) true = some .zoneMismatch :=
  (if_neg h).trans (if_pos fun e => hz (Option.some.inj e))

theorem searchRefusal_none (h : (s.fobs.get k).state ≠ .suspended) :
    s.searchRefusal o (some k) (some (matchingZone o)) true = none := (if_neg h).trans (if_neg (not_not.2 rfl))

end

/-- A SEARCH_RESULT compared with the search record and matched is judged (R136, R137). -/
theorem exec_searchResult_matched {dt : Time} {p : Port} {o : Origin} {l : List Byte}
    {found : Option (Word32 × Zone)} {inside : Bool} (hr : Receiving s p) (ha : Admitted s p 4) (hl : l.length ≤ 14)
    (hs : s.search.state = .inFlight) (ho : s.search.origin = some o)
    (h : searchResultOwner p l (atOwner dt p s) = takeResult p s.search.seq found inside (atOwner dt p s)) :
    exec (.searchResult dt p l) s =
      (let x := matchResult p o found inside (atOwner dt p s)
       .next (answered p 0x42 x.2 x.1)) := by
  have hm := takeResult_matched (s := atOwner dt p s) p found inside (by rw [atOwner_search]; exact hs)
    (by rw [atOwner_search]; exact ho)
  rw [atOwner_search] at hm
  rw [exec_searchResult, onRequest_admitted dt p 0x42 l _ hr ha hl, h, hm]

/-- Settles O44. -/
theorem searchResulted : Obligations.SearchResulted := by
  refine ⟨?lateShort, ?lateLong, ?notFound, ?keyInsideShort, ?keyInsideLong, ?refused, ⟨rfl, rfl, rfl, rfl, rfl⟩, ?acts,
    fun c k z b s => rfl⟩
  case lateShort =>
    intro dt p q x s hr ha hx h
    obtain ⟨b, hb⟩ := boolOf_of_listed hx
    refine onRequest_unchanged hr ha (by simp) ?_
    rw [searchResultOwner_notFound p q hb, takeResult_late p none b (by rw [atOwner_search]; exact h)]
    rfl
  case lateLong =>
    intro dt p q x i3 i2 i1 i0 zone s hr ha hx hz h
    obtain ⟨b, hb⟩ := boolOf_of_listed hx
    obtain ⟨z, hz⟩ := Option.ne_none_iff_exists'.1 (mt zoneByteOf_eq_none.1 (Nat.not_lt_of_le hz))
    refine onRequest_unchanged hr ha (by simp) ?_
    rw [searchResultOwner_found p q i3 i2 i1 i0 hb hz, takeResult_late p _ b (by rw [atOwner_search]; exact h)]
    rfl
  case notFound =>
    intro dt p o x b s hr ha hs ho hb hi
    rw [exec_searchResult_matched hr ha (by simp) hs ho (searchResultOwner_notFound p _ hb),
      matchResult_refused p none hi (searchRefusal_notFound o _ _)]
    rfl
  case keyInsideShort =>
    intro dt p o s hr ha hs ho hl
    rw [exec_searchResult_matched hr ha (by simp) hs ho (searchResultOwner_notFound p _ rfl),
      matchResult_keyInside p none hl]
    rfl
  case keyInsideLong =>
    intro dt p o i3 i2 i1 i0 zone z s hr ha hs ho hl hz
    rw [exec_searchResult_matched hr ha (by simp) hs ho (searchResultOwner_found p _ i3 i2 i1 i0 rfl hz),
      matchResult_keyInside p _ hl, endedWithout, atOwner_resultEnded, atOwner_resultSlot]
    cases s.findFob (word32 i3 i2 i1 i0) <;> rfl
  case refused =>
    intro dt p o x i3 i2 i1 i0 zone z b s hr ha hs ho hz hb hi
    have refused {k : Option SlotId} {a : SearchAction} (hf : s.findFob (word32 i3 i2 i1 i0) = k)
        (h : s.searchRefusal o k (some z) true = some a) :
        matchResult p o (some (word32 i3 i2 i1 i0, z)) b (atOwner dt p s) =
          (let u := endSearch .found k (some z) (some b) (atOwner dt p s)
           (u.withSearch { u.search with action := a, group := 0 },
            { result := .ok, payload := [foundByte k, 0xFF, 0] })) := by
      rw [matchResult_refused p _ hi (by rw [searchRefusal_resultEnded, atOwner_resultSlot, hf]; exact h), endedWithout,
        atOwner_resultEnded, atOwner_resultSlot, hf]
    dsimp only
    rw [exec_searchResult_matched hr ha (by simp) hs ho (searchResultOwner_found p _ i3 i2 i1 i0 hb hz)]
    refine ⟨fun hf => ?_, fun k hf hk => ?_, fun k hf hk hne => ?_⟩
    · rw [refused hf (searchRefusal_unknown o _)]; rfl
    · rw [refused hf (searchRefusal_suspended o _ hk)]; rfl
    · rw [refused hf (searchRefusal_elsewhere hk hne)]; rfl
  case acts =>
    intro dt p o x i3 i2 i1 i0 zone b k s hr ha hs ho hf hk hz hb hi
    rw [exec_searchResult_matched hr ha (by simp) hs ho (searchResultOwner_found p _ i3 i2 i1 i0 hb hz),
      matchResult_acts p _ hi ((atOwner_resultSlot dt p _ _).trans hf)
        (by rw [searchRefusal_resultEnded]; exact searchRefusal_none hk),
      atOwner_resultEnded, hf, atOwner_fobs]

end Sys2Proof.Machine
end

section
/-! Fob administration: the common checks, the slot conditions and the effects of the five requests (R116, R130, R131,
R142 to R146). -/

namespace Sys2Proof.Machine

variable {s : State}

/-! ### The common checks (R142) -/

theorem adminRefusal_ignition (h : s.ctx.ignition ≠ .run) : s.adminRefusal = some .ignitionState := if_pos h

theorem adminRefusal_moving (hi : s.ctx.ignition = .run) (h : s.ctx.speed = .moving ∨ s.ctx.fresh = false) :
    s.adminRefusal = some .moving :=
  (if_neg (not_not.2 hi)).trans (if_pos (effSpeed_ne_standstill_iff.2 h.symm))

theorem adminRefusal_none (hi : s.ctx.ignition = .run) (h : s.effSpeed = .standstill) : s.adminRefusal = none :=
  (if_neg (not_not.2 hi)).trans (if_neg (not_not.2 h))

theorem atOwner_adminRefusal (dt : Time) (p : Port) : (atOwner dt p s).adminRefusal = s.adminRefusal := by
  simp only [State.adminRefusal, atOwner_ignition, atOwner_effSpeed]

theorem administer_refused {act : State → State × Reply} {r : Result} (h : s.adminRefusal = some r) :
    administer act s = refuse r s := by
  simp only [administer, h]

theorem administer_passed {act : State → State × Reply} (h : s.adminRefusal = none) : administer act s = act s := by
  simp only [administer, h]

/-- An owner reads a payload as the fob administration request that `act` carries out. -/
def Administers (f : Owner) (l : List Byte) (act : State → State × Reply) : Prop :=
  l.length ≤ 14 ∧ ∀ p u, f p l u = administer act u

namespace Administers

variable {f : Owner} {l : List Byte} {act : State → State × Reply} {dt : Time} {p : Port}

theorem refused {r : Result} (k : Administers f l act) (c : Byte) (hr : Receiving s p)
    (ha : Admitted s p (groupOfCode c)) (h : s.adminRefusal = some r) :
    onRequest dt p c l f s = .next (answered p c (Reply.of r) (atOwner dt p s)) := by
  obtain ⟨hl, hf⟩ := k
  exact onRequest_unchanged hr ha hl
    ((hf _ _).trans (administer_refused (by rw [atOwner_adminRefusal]; exact h)))

theorem passed {t : State} {r : Reply} (k : Administers f l act) (c : Byte) (hr : Receiving s p)
    (ha : Admitted s p (groupOfCode c)) (h : s.adminRefusal = none) (e : act (atOwner dt p s) = (t, r)) :
    onRequest dt p c l f s = .next (answered p c r t) := by
  obtain ⟨hl, hf⟩ := k
  rw [onRequest_admitted dt p c l f hr ha hl, hf, administer_passed (by rw [atOwner_adminRefusal]; exact h), e]

end Administers

/-! ### The payloads (R142, R143, R146) -/

section
variable {sb mb cb : Byte} {k : SlotId} {m : UnlockMode} {v : Bool}

theorem slotOwner_administers (act : SlotId → State → State × Reply) (hk : slotOf sb = some k) :
    Administers (slotOwner act) [sb] (act k) :=
  ⟨by simp, fun p u => by simp only [slotOwner, hk]⟩

theorem enrolOwner_administers (i3 i2 i1 i0 c3 c2 c1 c0 : Byte) (hk : slotOf sb = some k) (hm : modeOf mb = some m)
    (hv : boolOf cb = some v) : Administers enrolOwner [sb, i3, i2, i1, i0, c3, c2, c1, c0, mb, cb]
      (enrol k (word32 i3 i2 i1 i0) (word32 c3 c2 c1 c0) m v) :=
  ⟨by simp, fun p u => by simp only [enrolOwner, hk, hm, hv]⟩

theorem setFobModeOwner_administers (hk : slotOf sb = some k) (hm : modeOf mb = some m) (hv : boolOf cb = some v) :
    Administers setFobModeOwner [sb, mb, cb] (setFobMode k m v) :=
  ⟨by simp, fun p u => by simp only [setFobModeOwner, hk, hm, hv]⟩

end

/-! ### The slot conditions and the effects (R131, R143 to R146) -/

theorem not_enrolled_iff {f : Fob} : f.enrolled = false ↔ f.state ≠ .active ∧ f.state ≠ .suspended := by
  rw [← Bool.not_eq_true, enrolled_iff, not_or]

section
variable {k : SlotId}

/-- The tracker lets go of a slot whose row was written, when it follows its press (R131). -/
theorem letGo_written (f : Fob → Fob) (s : State) : letGo k (writeFob k (s.modFob k f)) =
    if s.follows k then releaseTracker (writeFob k (s.modFob k f)) else writeFob k (s.modFob k f) := by
  have h : (writeFob k (s.modFob k f)).follows k = s.follows k := by
    rw [State.follows, writeFob, (Records.storeWrite _ _ _).tracker]
    rfl
  rw [letGo, h]

theorem atOwner_follows (dt : Time) (p : Port) : (atOwner dt p s).follows k = s.follows k := by
  rw [State.follows, atOwner_tracker, State.follows]

theorem removeSlot_empty (h : (s.fobs.get k).state = .empty) : removeSlot k s = refuse .ok s := if_pos h

theorem removeSlot_taken (h : (s.fobs.get k).state ≠ .empty) :
    removeSlot k s = (letGo k (writeFob k (s.modFob k fun _ => Fob.reset)), Reply.of .ok) := if_neg h

theorem suspendSlot_active (h : (s.fobs.get k).state = .active) : suspendSlot k s =
    (letGo k (writeFob k (s.modFob k fun f => { f with state := .suspended, resync := none })), Reply.of .ok) := by
  simp only [suspendSlot, h]

theorem suspendSlot_suspended (h : (s.fobs.get k).state = .suspended) : suspendSlot k s = refuse .ok s := by
  simp only [suspendSlot, h]

theorem suspendSlot_absent (h : (s.fobs.get k).enrolled = false) : suspendSlot k s = refuse .unknownFob s := by
  obtain ⟨ha, hs⟩ := not_enrolled_iff.1 h
  unfold suspendSlot
  split
  next e => exact absurd e ha
  next e => exact absurd e hs
  next => rfl

theorem reinstateSlot_suspended (h : (s.fobs.get k).state = .suspended) : reinstateSlot k s =
    (writeFob k (s.modFob k fun f => { f with state := .active, resync := none }), Reply.of .ok) := by
  simp only [reinstateSlot, h]

theorem reinstateSlot_active (h : (s.fobs.get k).state = .active) : reinstateSlot k s = refuse .ok s := by
  simp only [reinstateSlot, h]

theorem reinstateSlot_absent (h : (s.fobs.get k).enrolled = false) : reinstateSlot k s = refuse .unknownFob s := by
  obtain ⟨ha, hs⟩ := not_enrolled_iff.1 h
  unfold reinstateSlot
  split
  next e => exact absurd e hs
  next e => exact absurd e ha
  next => rfl

variable {m : UnlockMode} {v : Bool}

theorem setFobMode_absent (h : (s.fobs.get k).enrolled = false) : setFobMode k m v s = refuse .unknownFob s :=
  if_pos (by rw [h]; decide)

theorem setFobMode_same (h : (s.fobs.get k).enrolled = true)
    (e : (s.fobs.get k).mode = m ∧ (s.fobs.get k).comfort = v) : setFobMode k m v s = refuse .ok s :=
  (if_neg (by rw [h]; decide)).trans (if_pos e)

/-- SET_FOB_MODE keeps a pending counter (R121, R146; log 42). -/
theorem setFobMode_changed (h : (s.fobs.get k).enrolled = true)
    (e : ¬ ((s.fobs.get k).mode = m ∧ (s.fobs.get k).comfort = v)) : setFobMode k m v s =
    (writeFob k (s.modFob k fun f => { f with mode := m, comfort := v }), Reply.of .ok) :=
  (if_neg (by rw [h]; decide)).trans (if_neg e)

end

section
variable {k : SlotId} {i c : Word32} {m : UnlockMode} {v : Bool}

theorem enrol_inUse (h : (s.fobs.get k).enrolled = true) : enrol k i c m v s = refuse .slotInUse s := if_pos h

theorem enrol_duplicate (h : (s.fobs.get k).enrolled = false) (hf : s.findFob i ≠ none) :
    enrol k i c m v s = refuse .duplicate s :=
  (if_neg (by rw [h]; decide)).trans (if_pos (Option.isSome_iff_ne_none.2 hf))

theorem enrol_taken (h : (s.fobs.get k).enrolled = false) (hf : s.findFob i = none) : enrol k i c m v s =
    (patternRequest 5 (writeFob k (s.modFob k fun _ =>
      { state := .active, ident := i, counter := c, ceiling := c + 32, resync := none, mode := m, comfort := v
        failures := 0, verdict := .none, press := none })), Reply.of .ok) :=
  (if_neg (by rw [h]; decide)).trans (if_neg (by rw [hf]; decide))

end

/-- Settles O45. -/
theorem fobAdministrationChecked : Obligations.FobAdministrationChecked := by
  refine ⟨?slotChecks, ?fobChecks, ?slot, ?mode⟩
  case slotChecks =>
    intro dt p b k s hr ha hk
    have refused {r : Result} (h : s.adminRefusal = some r) (act : SlotId → State → State × Reply) (c : Byte)
        (hc : Admitted s p (groupOfCode c)) : onRequest dt p c [b] (slotOwner act) s =
          .next (answered p c (Reply.of r) (atOwner dt p s)) :=
      (slotOwner_administers act hk).refused c hr hc h
    refine ⟨fun hi => ?_, fun hi hv => ?_⟩
    · have h := adminRefusal_ignition hi
      exact ⟨refused h removeSlot 0x51 ha, refused h suspendSlot 0x52 ha, refused h reinstateSlot 0x53 ha⟩
    · have h := adminRefusal_moving hi hv
      exact ⟨refused h removeSlot 0x51 ha, refused h suspendSlot 0x52 ha, refused h reinstateSlot 0x53 ha⟩
  case fobChecks =>
    intro dt p sb i3 i2 i1 i0 c3 c2 c1 c0 mb cb k m v s hr ha hk hm hv
    have enrols := enrolOwner_administers i3 i2 i1 i0 c3 c2 c1 c0 hk hm hv
    have sets := setFobModeOwner_administers hk hm hv
    refine ⟨fun hi => ?_, fun hi hv => ?_⟩
    · have h := adminRefusal_ignition hi
      exact ⟨enrols.refused 0x50 hr ha h, sets.refused 0x54 hr ha h⟩
    · have h := adminRefusal_moving hi hv
      exact ⟨enrols.refused 0x50 hr ha h, sets.refused 0x54 hr ha h⟩
  case slot =>
    intro dt p b k s hr ha hk hi hs
    have suspends := slotOwner_administers suspendSlot hk
    have reinstates := slotOwner_administers reinstateSlot hk
    have h := adminRefusal_none hi hs
    dsimp only
    rw [← atOwner_fobs (s := s) dt p, ← atOwner_follows (s := s) dt p]
    refine ⟨fun ho => ⟨?_, reinstates.passed 0x53 hr ha h (reinstateSlot_active ho)⟩,
      fun ho => ⟨suspends.passed 0x52 hr ha h (suspendSlot_suspended ho),
        reinstates.passed 0x53 hr ha h (reinstateSlot_suspended ho)⟩,
      fun ho => ⟨suspends.passed 0x52 hr ha h (suspendSlot_absent ho),
        reinstates.passed 0x53 hr ha h (reinstateSlot_absent ho)⟩⟩
    rw [← letGo_written]
    exact suspends.passed 0x52 hr ha h (suspendSlot_active ho)
  case mode =>
    intro dt p sb mb cb k m v s hr ha hk hm hv hi hs
    have sets := setFobModeOwner_administers hk hm hv
    have h := adminRefusal_none hi hs
    dsimp only
    rw [← atOwner_fobs (s := s) dt p]
    split
    next he => exact sets.passed 0x54 hr ha h (setFobMode_absent he)
    next he =>
      have he := Bool.eq_true_of_not_eq_false he
      split
      next e => exact sets.passed 0x54 hr ha h (setFobMode_same he e)
      next e => exact sets.passed 0x54 hr ha h (setFobMode_changed he e)

/-! ### The row of a slot and the release of the held press (R116, R130) -/

theorem writeFob_eq (k : SlotId) (s : State) : writeFob k s = storeWrite (Fin.ofNat 35 (5 + k.index))
    (padBytes 13 (be32 (s.fobs.get k).ident ++ be32 (s.fobs.get k).ceiling ++
      [(s.fobs.get k).state.stored, (s.fobs.get k).mode.code, boolByte (s.fobs.get k).comfort])) s := rfl

theorem releaseTracker_eq (s : State) : releaseTracker s =
    (if s.tracker.held.any (·.comfort) = true then endComfort s else s).withTracker
      { s.tracker with held := none, eligible := false } := by
  unfold releaseTracker endPressComfort
  simp only [trackerInComfort_iff]

/-- Settles O46. -/
theorem fobsEnrolledAndRemoved : Obligations.FobsEnrolledAndRemoved := by
  refine ⟨?enrolled, ?removed, ?empty, ?refused, ?row, releaseTracker_eq⟩
  case enrolled =>
    intro dt p sb i3 i2 i1 i0 c3 c2 c1 c0 mb cb k m v s hr ha hk hm hv hi hs he hf
    exact (enrolOwner_administers i3 i2 i1 i0 c3 c2 c1 c0 hk hm hv).passed 0x50 hr ha (adminRefusal_none hi hs)
      (enrol_taken (by rw [atOwner_fobs]; exact he) (by rw [atOwner_findFob]; exact hf))
  case removed =>
    intro dt p b k s hr ha hk hi hs he
    dsimp only
    rw [← atOwner_follows (s := s) dt p, ← letGo_written]
    exact (slotOwner_administers removeSlot hk).passed 0x51 hr ha (adminRefusal_none hi hs)
      (removeSlot_taken (by rw [atOwner_fobs]; exact he))
  case empty =>
    intro dt p b k s hr ha hk hi hs he
    exact (slotOwner_administers removeSlot hk).passed 0x51 hr ha (adminRefusal_none hi hs)
      (removeSlot_empty (by rw [atOwner_fobs]; exact he))
  case refused =>
    intro dt p sb i3 i2 i1 i0 c3 c2 c1 c0 mb cb k m v s hr ha hk hm hv hi hs
    have enrols := enrolOwner_administers i3 i2 i1 i0 c3 c2 c1 c0 hk hm hv
    have h := adminRefusal_none hi hs
    rw [← atOwner_fobs (s := s) dt p, ← atOwner_findFob dt p]
    exact ⟨fun he => enrols.passed 0x50 hr ha h (enrol_inUse he),
      fun he hf => enrols.passed 0x50 hr ha h (enrol_duplicate he hf)⟩
  case row =>
    intro k s
    dsimp only
    rw [writeFob_eq]
    cases (s.fobs.get k).state <;> cases (s.fobs.get k).mode <;> rfl

end Sys2Proof.Machine
end

section
/-! The checks of every request: permission, unknown codes, and payloads outside their lengths and lists (R188 to R190,
section 10.5). -/

namespace Sys2Proof.Machine

variable {s : State}

/-! ### Permission and unknown codes (R188, R189) -/

/-- Outside G0, and for the restraint port outside G6 and G7, the mask byte of the port decides (R189). -/
theorem permitted_mask {p : Port} {g : Nat} (h0 : g ≠ 0) (h : p = .restraint → g ≤ 5) :
    s.permitted p g = true ↔ s.cfg.permission p / 2 ^ g % 2 = 1 := by
  unfold State.permitted
  dsimp only
  split
  next => exact absurd rfl h0
  next => exact absurd (h rfl) (by decide)
  next => exact absurd (h rfl) (by decide)
  next => exact beq_iff_eq

theorem dispatch_notPermitted {p : Port} {c : Byte} (f : Owner) (l : List Byte)
    (h : s.permitted p (groupOfCode c) = false) : dispatch (some f) p c l s = refuse .notPermitted s :=
  if_pos (by rw [h]; rfl)

theorem onRequest_notPermitted {dt : Time} {p : Port} {c : Byte} {l : List Byte} (f : Owner) (hr : Receiving s p)
    (hl : l.length ≤ 14) (h : s.permitted p (groupOfCode c) = false) :
    onRequest dt p c l f s = .next (answered p c (Reply.of .notPermitted) (atOwner dt p s)) := by
  rw [onRequest_receiving dt p c l f hr hl, dispatch_notPermitted f l (by rw [atOwner_permitted]; exact h)]
  rfl

/-- The request table has an owner for the known codes alone (section 10.5). -/
theorem ownerOf_eq_none {c : Byte} (h : c ∉ knownCodes) : ownerOf c = none := by
  have hc : BitVec.ofNat 8 c.toNat = c := by simp
  unfold ownerOf
  split
  case h_25 => rfl
  all_goals
    next e =>
    rw [e] at hc
    exact absurd (hc ▸ by decide) h

/-- A frame of an unknown code taken in RUN (R188). -/
theorem takeFrame_unknown {dt : Time} {p : Port} {c : Byte} (l : List Byte) (h : s.sys.mode = .run) :
    takeFrame none p c l (csRise p (advance dt s)) = setSlot p c (Reply.of .unknownRequest) (atOwner dt p s) := by
  have hm : ¬ (csRise p (advance dt s)).sys.mode = .starting := by
    show ¬ s.sys.mode = .starting
    rw [h]
    decide
  exact if_neg hm

theorem exec_unknownRequest {dt : Time} {p : Port} {c : Byte} {l : List Byte} (hr : Receiving s p)
    (hl : l.length ≤ 14) (h : c ∉ knownCodes) :
    exec (.unknownRequest dt p c l) s =
      .next (answered p c (Reply.of .unknownRequest) (atOwner dt p s)) := by
  show onPulse dt p (if l.length ≤ 14 then takeFrame (ownerOf c) p c l else takeError p) s = _
  rw [if_pos hl, ownerOf_eq_none h, onPulse_receiving dt p _ hr, takeFrame_unknown l hr.1.2]
  rfl

/-! ### Payloads outside their length (R190) -/

section
variable {p : Port} {l : List Byte} {u : State}

theorem nopOwner_bad (h : l.length ≠ 0) : nopOwner p l u = refuse .badArgument u :=
  if_neg (mt List.length_eq_zero_iff.2 h)

theorem readSearchOwner_bad (h : l.length ≠ 0) : readSearchOwner p l u = refuse .badArgument u :=
  if_pos (mt List.length_eq_zero_iff.2 h)

theorem restartOwner_bad (h : l.length ≠ 0) : restartOwner p l u = refuse .badArgument u :=
  if_pos (mt List.length_eq_zero_iff.2 h)

theorem commitOwner_bad (h : l.length ≠ 1) : commitOwner p l u = refuse .badArgument u := by
  unfold commitOwner
  split
  next => exact absurd rfl h
  next => rfl

theorem readStatusOwner_bad (h : l.length ≠ 2) : readStatusOwner p l u = refuse .badArgument u := by
  unfold readStatusOwner
  split
  next => exact absurd rfl h
  next => rfl

theorem clearEventsOwner_bad (h : l.length ≠ 4) : clearEventsOwner p l u = refuse .badArgument u := by
  unfold clearEventsOwner
  split
  next => exact absurd rfl h
  next => rfl

theorem setEventEnableOwner_bad (h : l.length ≠ 4) : setEventEnableOwner p l u = refuse .badArgument u := by
  unfold setEventEnableOwner
  split
  next => exact absurd rfl h
  next => rfl

/-! ### Payloads with a byte outside its list (R190) -/

theorem rearInhibitOwner_bad (h : ∀ b, l = [b] → 1 < b.toNat) : rearInhibitOwner p l u = refuse .badArgument u := by
  unfold rearInhibitOwner
  split
  next b => rw [boolOf_eq_none.2 (h b rfl)]
  next => rfl

theorem tailgateOwner_bad (h : ∀ b, l = [b] → 1 < b.toNat) : tailgateOwner p l u = refuse .badArgument u := by
  unfold tailgateOwner
  split
  next b => rw [originClass_eq_none.2 (h b rfl)]
  next => rfl

theorem normalizeOwner_bad (h : ∀ b, l = [b] → 3 < b.toNat) : normalizeOwner p l u = refuse .badArgument u := by
  unfold normalizeOwner
  split
  next b => rw [winOf_eq_none.2 (h b rfl)]
  next => rfl

theorem slotOwner_bad (act : SlotId → State → State × Reply) (h : ∀ b, l = [b] → 5 < b.toNat) :
    slotOwner act p l u = refuse .badArgument u := by
  unfold slotOwner
  split
  next b => rw [slotOf_eq_none.2 (h b rfl)]
  next => rfl

theorem crashNoticeOwner_bad (h : ∀ b, l = [b] → b.toNat = 0 ∨ 3 < b.toNat) :
    crashNoticeOwner p l u = refuse .badArgument u := by
  unfold crashNoticeOwner
  split
  next b => exact if_neg (by have := h b rfl; omega)
  next => rfl

theorem windowRequestOwner_bad (h : ∀ b a, l = [b, a] → 3 < b.toNat ∨ 2 < a.toNat)
    (h' : ∀ b a x y, l = [b, a, x, y] → 3 < b.toNat ∨ a ≠ 3) : windowRequestOwner p l u = refuse .badArgument u := by
  unfold windowRequestOwner
  dsimp only
  split
  next b a =>
    have hb := h b a rfl
    rw [← winOf_eq_none] at hb
    split
    next hw ha => simp [hw, ha] at hb
    next hw ha => simp [hw, ha] at hb
    next hw ha => simp [hw, ha] at hb
    next => rfl
  next b a x y =>
    have hb := h' b a x y rfl
    rw [← winOf_eq_none] at hb
    split
    next hw ha => exact absurd (BitVec.eq_of_toNat_eq ha) (hb.resolve_left (by rw [hw]; nofun))
    next => rfl
  next => rfl

theorem telegramOwner_bad (h : ∀ i3 i2 i1 i0 c3 c2 c1 c0 b n, l = [i3, i2, i1, i0, c3, c2, c1, c0, b, n] →
    2 < b.toNat ∨ 15 < n.toNat) : telegramOwner p l u = refuse .badArgument u := by
  unfold telegramOwner
  split
  next b n =>
    have hb := h _ _ _ _ _ _ _ _ b n rfl
    rw [← buttonOf_eq_none] at hb
    split
    next hs => exact if_neg (Nat.not_le_of_lt (hb.resolve_left (by rw [hs]; nofun)))
    next => rfl
  next => rfl

theorem searchResultOwner_bad (h : ∀ q o x, l = [q, o, x] → o ≠ 1 ∨ 1 < x.toNat)
    (h' : ∀ q o x i3 i2 i1 i0 z, l = [q, o, x, i3, i2, i1, i0, z] → o ≠ 0 ∨ 1 < x.toNat ∨ 3 < z.toNat) :
    searchResultOwner p l u = refuse .badArgument u := by
  unfold searchResultOwner
  split
  next q o x =>
    have hb := h q o x rfl
    rw [← boolOf_eq_none] at hb
    split
    next hx => exact if_neg (hb.resolve_right (by rw [hx]; nofun))
    next => rfl
  next q o x i3 i2 i1 i0 z =>
    have hb := h' q o x i3 i2 i1 i0 z rfl
    rw [← boolOf_eq_none, ← zoneByteOf_eq_none] at hb
    split
    next hx hz => exact if_neg (hb.resolve_right (by rw [hx, hz]; nofun))
    next => rfl
  next => rfl

theorem enrolOwner_bad (h : ∀ k i3 i2 i1 i0 c3 c2 c1 c0 m x, l = [k, i3, i2, i1, i0, c3, c2, c1, c0, m, x] →
    5 < k.toNat ∨ 1 < m.toNat ∨ 1 < x.toNat) : enrolOwner p l u = refuse .badArgument u := by
  unfold enrolOwner
  split
  next k i3 i2 i1 i0 c3 c2 c1 c0 m x =>
    have hb := h k i3 i2 i1 i0 c3 c2 c1 c0 m x rfl
    rw [← slotOf_eq_none, ← modeOf_eq_none, ← boolOf_eq_none] at hb
    split
    next hk hm hx => simp [hk, hm, hx] at hb
    next => rfl
  next => rfl

theorem setFobModeOwner_bad (h : ∀ k m x, l = [k, m, x] → 5 < k.toNat ∨ 1 < m.toNat ∨ 1 < x.toNat) :
    setFobModeOwner p l u = refuse .badArgument u := by
  unfold setFobModeOwner
  split
  next k m x =>
    have hb := h k m x rfl
    rw [← slotOf_eq_none, ← modeOf_eq_none, ← boolOf_eq_none] at hb
    split
    next hk hm hx => simp [hk, hm, hx] at hb
    next => rfl
  next => rfl

end

/-- Settles O58. -/
theorem requestsChecked : Obligations.RequestsChecked := by
  refine ⟨⟨fun p s => ⟨rfl, rfl, rfl⟩, ?mask, ?notPermitted, ?unknown⟩, ?bad⟩
  case mask =>
    intro g s h1 h7
    have h0 : g ≠ 0 := Nat.ne_of_gt h1
    exact ⟨permitted_mask h0 nofun, permitted_mask h0 nofun, fun h5 => permitted_mask h0 fun _ => h5⟩
  case notPermitted =>
    intro dt p c l i s hi hr hl h
    obtain ⟨f, hf⟩ := exec_request hi s
    rw [hf, onRequest_notPermitted f hr hl h]
  case unknown => exact fun dt p c l s hr hl h => exec_unknownRequest hr hl h
  case bad =>
    intro dt p l s hr hl
    have bad {f : Owner} (c : Byte) (ha : Admitted s p (groupOfCode c)) (h : ∀ u, f p l u = refuse .badArgument u) :
        onRequest dt p c l f s = .next (answered p c (Reply.of .badArgument) (atOwner dt p s)) :=
      onRequest_unchanged hr ha hl (h _)
    refine ⟨fun ha => ⟨?_, ?_, ?_⟩, fun ha h => ⟨?_, ?_⟩, fun ha => ⟨?_, ?_⟩, fun ha => ⟨?_, ?_, ?_⟩,
      fun ha => ⟨?_, ?_, ?_⟩, fun ha => ?_, fun ha => ⟨?_, ?_⟩⟩
    · exact fun h => bad 0x00 ha fun u => nopOwner_bad h
    · exact fun h => bad 0x01 ha fun u => readStatusOwner_bad h
    · exact fun h => ⟨bad 0x02 ha fun u => clearEventsOwner_bad h, bad 0x03 ha fun u => setEventEnableOwner_bad h⟩
    · exact bad 0x22 ha fun u => rearInhibitOwner_bad h
    · exact bad 0x23 ha fun u => tailgateOwner_bad h
    · exact fun h h' => bad 0x30 ha fun u => windowRequestOwner_bad h h'
    · exact fun h => bad 0x31 ha fun u => normalizeOwner_bad h
    · exact fun h => bad 0x40 ha fun u => telegramOwner_bad h
    · exact fun h => bad 0x41 ha fun u => readSearchOwner_bad h
    · exact fun h h' => bad 0x42 ha fun u => searchResultOwner_bad h h'
    · exact fun h => bad 0x50 ha fun u => enrolOwner_bad h
    · exact fun h => ⟨bad 0x51 ha fun u => slotOwner_bad _ h, bad 0x52 ha fun u => slotOwner_bad _ h,
        bad 0x53 ha fun u => slotOwner_bad _ h⟩
    · exact fun h => bad 0x54 ha fun u => setFobModeOwner_bad h
    · exact fun h => bad 0x60 ha fun u => crashNoticeOwner_bad h
    · exact fun h => bad 0x71 ha fun u => commitOwner_bad h
    · exact fun h => bad 0x73 ha fun u => restartOwner_bad h

end Sys2Proof.Machine
end

section
/-! The crash line decoder (R148 to R150) and CRASH_CLEAR (R158). -/

namespace Sys2Proof.Machine

variable {s : State}

/-! ### The end of a step, and the rows at a request -/

/-- A step's last act moves at most the system record (R200). -/
theorem refreshPark_alone (s : State) : refreshPark s = s.withSys (refreshPark s).sys := by
  unfold refreshPark
  split
  · split <;> rfl
  · rfl

@[simp] theorem refreshPark_crash (s : State) : (refreshPark s).crash = s.crash := by
  rw [refreshPark_alone, State.withSys_crash]

@[simp] theorem refreshPark_arb (s : State) : (refreshPark s).arb = s.arb := by
  rw [refreshPark_alone, State.withSys_arb]

@[simp] theorem atOwner_row (dt : Time) (p : Port) (l : LRow) : (atOwner dt p s).row l = s.row l := by
  simp only [State.row, atOwner_store]

/-! ### The decoder (R148 to R150) -/

/-- A length outside a range is short or long (R149). -/
theorem not_within_iff {x a b : Nat} : ¬ (a ≤ x ∧ x ≤ b) ↔ x < a ∨ b < x := by omega

theorem gapValid_iff {c : CrashUnit} {fall : Time} :
    c.gapValid fall = true ↔ c.lastRise + msec 8 ≤ fall ∧ fall ≤ c.lastRise + msec 12 := by
  simp [CrashUnit.gapValid]

/-- A measured low is taken in IDLE alone; one from before the release of the last reset is a line fault (R148, R149). -/
theorem measureLow_eq (u : State) : measureLow u =
    if u.crash.line = .idle ∧ u.now < u.crash.watchedFrom + msec 1 then u.withCrash { u.crash with line := .fault }
    else if u.crash.line = .idle then
      (wake u).withCrash { u.crash with
        line := .low, lowStart := u.now - msec 1
        count := if u.crash.lastRise + msec 8 ≤ u.now - msec 1 ∧ u.now - msec 1 ≤ u.crash.lastRise + msec 12
          then u.crash.count else 0 }
    else u := by
  unfold measureLow
  split
  next hl =>
    by_cases hw : u.now < u.crash.watchedFrom + msec 1
    · rw [if_pos hw, if_pos ⟨hl, hw⟩]
    · rw [if_neg hw, if_neg fun k => hw k.2, if_pos hl]
      simp only [(Records.wake u).crash, gapValid_iff]
  next hl => rw [if_neg fun k => hl k.1, if_neg hl]

theorem exec_crashLineLowMeasured (dt : Time) (h : s.sys.inReset = false) : exec (.crashLineLowMeasured dt) s =
    .next (refreshPark (measureLow (advance dt (s.withPins { s.pins with crashLow := true })))) :=
  onReport_awake dt measureLow (by exact h)

/-- What the rising edge that ends a measured low makes of its length (R149). -/
theorem endLow_eq (u : State) : endLow u =
    (let len := u.now - u.crash.lowStart
     if u.crash.line ≠ .low then u
     else if msec 100 ≤ len then u.withCrash { u.crash with line := .fault, count := 0 }
     else if len < msec 8 ∨ msec 12 < len then u.withCrash { u.crash with line := .idle, count := 0 }
     else if u.crash.count ≠ 2 then
       u.withCrash { u.crash with line := .idle, lastRise := u.now, count := u.crash.count + 1 }
     else lineCrash (u.withCrash { u.crash with line := .idle, lastRise := u.now, count := 0 })) := by
  unfold endLow
  dsimp only
  split
  next hl =>
    rw [if_neg (not_not.2 hl)]
    refine if_congr Iff.rfl rfl ?_
    by_cases hp : msec 8 ≤ u.now - u.crash.lowStart ∧ u.now - u.crash.lowStart ≤ msec 12
    · rw [if_pos hp, if_neg (mt not_within_iff.2 (not_not.2 hp))]
      by_cases hc : u.crash.count = 2 <;> simp [hc]
    · rw [if_neg hp, if_pos (not_within_iff.1 hp)]
  next hl => rw [if_pos hl]

theorem exec_crashLineLowEnd (dt : Time) (h : s.sys.inReset = false) : exec (.crashLineLowEnd dt) s =
    .next (refreshPark (endLow (advance dt (s.withPins { s.pins with crashLow := false })))) :=
  onReport_awake dt endLow (by exact h)

/-- The third valid pulse of a crash (R149). -/
theorem endLow_third {u : State} (hl : u.crash.line = .low) (hc : u.crash.count = 2)
    (h8 : msec 8 ≤ u.now - u.crash.lowStart) (h12 : u.now - u.crash.lowStart ≤ msec 12) :
    endLow u = lineCrash (u.withCrash { u.crash with line := .idle, lastRise := u.now, count := 0 }) := by
  have h100 : ¬ msec 100 ≤ u.now - u.crash.lowStart := fun k => absurd (Nat.le_trans k h12) (by decide)
  rw [endLow_eq]
  dsimp only
  rw [if_neg (not_not.2 hl), if_neg h100, if_neg (mt not_within_iff.2 (not_not.2 ⟨h8, h12⟩)), if_neg (not_not.2 hc)]

/-- In STARTING a crash of the line is held (R148). -/
theorem lineCrash_starting {u : State} (h : u.sys.mode = .starting) :
    lineCrash u = u.withCrash { u.crash with held := true } := if_pos h

theorem lineFaultDue_low (h : s.crash.line = .low) : s.lineFaultDue = some (s.crash.lowStart + msec 100) := if_pos h

theorem gapDue_counting (h : s.crash.line = .idle ∧ 0 < s.crash.count) :
    s.gapDue = some (s.crash.lastRise + msec 12) := if_pos h

/-- A glitch that ends past the 12 ms mark ends the train as well (R149). -/
theorem exec_crashLineGlitchEnd (dt : Time) (h : s.sys.inReset = false) : exec (.crashLineGlitchEnd dt) s =
    .next (refreshPark (
      let u := advance dt (s.withPins { s.pins with crashLow := false })
      if s.crash.line = .idle ∧ 0 < s.crash.count ∧ s.crash.lastRise + msec 12 ≤ s.now + dt then
        u.withCrash { s.crash with count := 0 }
      else u)) := by
  show execCrashLineGlitchEnd dt s = _
  rw [execCrashLineGlitchEnd, onReport_awake _ _ (by exact h)]
  dsimp only
  generalize hu : advance dt (s.withPins { s.pins with crashLow := false }) = u
  have hc : u.crash = s.crash := by rw [← hu]; rfl
  have hn : u.now = s.now + dt := by rw [← hu]; rfl
  have hd : u.gapDue = s.gapDue := by rw [State.gapDue, hc, State.gapDue]
  rw [hd, hc, hn]
  by_cases hg : s.crash.line = .idle ∧ 0 < s.crash.count
  · rw [gapDue_counting hg]
    exact congrArg (fun v => Host.Outcome.next (refreshPark v))
      (if_congr ⟨fun k => ⟨hg.1, hg.2, k⟩, fun k => k.2.2⟩ rfl rfl)
  · have hs : s.gapDue = none := if_neg hg
    rw [hs, if_neg fun k => hg ⟨k.1, k.2.1⟩]

theorem exec_crashLineRecovery (dt : Time) (h : s.sys.inReset = false) : exec (.crashLineRecovery dt) s =
    .next (refreshPark (
      let u := advance dt (s.withPins { s.pins with crashLow := false })
      if s.crash.line = .fault then u.withCrash { s.crash with line := .idle, count := 0 } else u)) :=
  onReport_awake dt _ (by exact h)

/-- Settles O47. -/
theorem crashLineJudged : Obligations.CrashLineJudged := by
  refine ⟨fun dt s h => ?measured, fun s => wake_of_ne_park, fun dt s h => ?ended, fun s h => ?fault, fun s hl hc => ?gap,
    fun dt s h => exec_crashLineGlitchEnd dt h, fun dt s h => exec_crashLineRecovery dt h, fun dt s h hm hl hc h8 h12 => ?third⟩
  case measured =>
    rw [exec_crashLineLowMeasured dt h, measureLow_eq]
    rfl
  case ended =>
    rw [exec_crashLineLowEnd dt h, endLow_eq]
    rfl
  case fault => rw [exec_crashLineFault, lineFaultDue_low h, onTimer_due, reach_crash]
  case gap => rw [exec_crashGapTimeout, gapDue_counting ⟨hl, hc⟩, onTimer_due, reach_crash]
  case third =>
    refine ⟨_, by rw [exec_crashLineLowEnd dt h, endLow_third (by exact hl) (by exact hc) (by exact h8) (by exact h12), lineCrash_starting (by exact hm)], ?_, ?_, ?_⟩
    · rw [refreshPark_crash]; rfl
    · rw [refreshPark_crash]; rfl
    · rw [refreshPark_arb]; rfl

/-! ### CRASH_CLEAR (R158) -/

theorem exec_crashClear (dt : Time) (p : Port) (l : List Byte) (s : State) :
    exec (.crashClear dt p l) s = onRequest dt p 0x72 l crashClearOwner s := rfl

/-- The latch is cleared in ignition OFF alone, and a clear one stays as it is (R158). -/
theorem crashClearOwner_eq (p : Port) (l : List Byte) (u : State) : crashClearOwner p l u =
    if l.length ≠ 0 then refuse .badArgument u
    else if u.ctx.ignition ≠ .off then refuse .ignitionState u
    else if u.crash.latched = false then refuse .ok u
    else (offer .crashCleared (setCrash false 0 u), Reply.of .ok) := by
  unfold crashClearOwner
  refine if_congr (not_congr List.length_eq_zero_iff.symm) rfl (if_congr Iff.rfl rfl ?_)
  cases u.crash.latched <;> rfl

/-- Settles O49. -/
theorem crashCleared : Obligations.CrashCleared := by
  intro dt p l s hr ha hl
  rw [exec_crashClear, onRequest_admitted dt p 0x72 l _ hr ha hl, crashClearOwner_eq, setCrash]
  simp only [atOwner_ignition, atOwner_crash, atOwner_row]
  by_cases hp : l.length ≠ 0
  · rw [if_pos hp, if_pos hp]; rfl
  rw [if_neg hp, if_neg hp]
  by_cases hi : s.ctx.ignition ≠ .off
  · rw [if_pos hi, if_pos hi]; rfl
  rw [if_neg hi, if_neg hi]
  by_cases hc : s.crash.latched = false
  · rw [if_pos hc, if_pos hc]; rfl
  · rw [if_neg hc, if_neg hc]; rfl

end Sys2Proof.Machine
end

section
/-! A crash taken from a notice or the line (R151 to R156), and the search record at a crash (R141). -/

namespace Sys2Proof.Machine

variable {s : State}

/-! ### What a grant scan keeps (R18 to R23) -/

section
variable {P : State → Prop} (hr : ∀ w t, P t → P (revokeWindow w t))
include hr

theorem revokeUntil_preserves (f : State → Bool) (ws : List Win) (h : P s) : P (revokeUntil f ws s) := by
  induction ws generalizing s with
  | nil => exact h
  | cons w ws ih =>
    cases hf : f s with
    | true => rw [revokeUntil_enough w ws hf]; exact h
    | false => rw [revokeUntil_more w ws hf]; exact ih (hr w s h)

theorem roomFor_preserves (e : Entry) (h : P s) : P (s.roomFor e) := by
  unfold State.roomFor
  split
  · exact h
  · split
    · exact revokeUntil_preserves hr _ _ h
    · exact h

variable (hg : ∀ e t, P t → P (grantEntry e t)) (hh : ∀ e t, P t → P (reportHold e t))
include hg hh

theorem walk_preserves (q : List Entry) (h : P s) : P (walk q s) := by
  induction q generalizing s with
  | nil => exact h
  | cons e rest ih =>
    cases hb : s.busy e with
    | true => rw [walk_busy rest hb]; exact ih h
    | false =>
      cases hot : s.hotHeld e with
      | true => rw [walk_hot rest hb hot]; exact ih (hh e s h)
      | false =>
        cases ho : s.overHeld e with
        | true => rw [walk_over rest hb hot ho]; exact ih h
        | false =>
          have room := roomFor_preserves hr e h
          rw [walk_eligible rest hb hot ho]
          split
          · exact ih (hg e _ room)
          · exact room

/-- A scan does nothing but grant, report a thermal hold and revoke, so it keeps whatever these three keep. -/
theorem scan_preserves (h : P s) : P (scan s) := by
  unfold scan
  split
  · exact h
  · exact walk_preserves hr hg hh _ h

end

/-! ### The end of comfort leaves the search record (R91) -/

theorem offer_search (e : Ev) (s : State) : (offer e s).search = s.search := (Records.offer e s).search

theorem addHold_search (a : Actuator) (s : State) : (addHold a s).search = s.search := by
  unfold addHold
  split <;> rfl

theorem brakeWindow_search (w : Win) (s : State) : (brakeWindow w s).search = s.search := by
  unfold brakeWindow
  split <;> rfl

theorem windowRevoked_search (w : Win) (c : StopCause) (s : State) : (windowRevoked w c s).search = s.search :=
  brakeWindow_search w s

theorem revokeWindow_search (w : Win) (s : State) : (revokeWindow w s).search = s.search := by
  unfold revokeWindow
  rw [offer_search, windowRevoked_search, addHold_search]
  rfl

theorem startDrive_search (e : Entry) (s : State) : (startDrive e s).search = s.search := by
  unfold startDrive
  split
  · rfl
  · rfl
  · rfl
  · unfold grantWindow startRun
    split <;> rfl

theorem grantEntry_search (e : Entry) (s : State) : (grantEntry e s).search = s.search := by
  rw [grantEntry_eq, startDrive_search]
  rfl

theorem reportHold_search (e : Entry) (s : State) : (reportHold e s).search = s.search := by
  unfold reportHold
  split
  · rfl
  · rw [offer_search]
    rfl

theorem scan_search (s : State) : (scan s).search = s.search :=
  scan_preserves (P := fun t => t.search = s.search) (fun w t h => (revokeWindow_search w t).trans h)
    (fun e t h => (grantEntry_search e t).trans h) (fun e t h => (reportHold_search e t).trans h) rfl

theorem withdrawMovement_search (w : Win) (r : RunState) (s : State) :
    (withdrawMovement w r s).search = s.search := by
  unfold withdrawMovement withdraw
  split
  · exact scan_search _
  · rfl

/-- A stop other than at the top, which learns nothing. -/
theorem stopRun_search {c : StopCause} (w : Win) (h : c ≠ .top) (s : State) : (stopRun w c s).search = s.search := by
  unfold stopRun
  rw [if_neg h]
  exact brakeWindow_search w _

/-- What a stop request can do (R75). -/
theorem applyStop_cases (w : Win) (k : Cls) (c : StopCause) (s : State) :
    (applyStop w k c s).1 = s ∨ (∃ r, (applyStop w k c s).1 = withdrawMovement w r s)
      ∨ (applyStop w k c s).1 = stopRun w c s ∨ ∃ f, (applyStop w k c s).1 = s.modWindow w f := by
  cases hb : (s.windows.get w).countsReversing with
  | true => exact .inl (by rw [applyStop_busy c hb])
  | false =>
    have moving (hm : (s.windows.get w).run = .runUp ∨ (s.windows.get w).run = .runDown) :
        (applyStop w k c s).1 = s ∨ (applyStop w k c s).1 = stopRun w c s := by
      cases hy : (s.windows.get w).yields k with
      | true => exact .inr (by rw [applyStop_running c hm hy])
      | false => exact .inl (by rw [applyStop_overruled c (.inr hm) hy])
    cases hr : (s.windows.get w).run with
    | stopped => exact .inl (by rw [applyStop_idle c (.inl hr)])
    | faulted => exact .inl (by rw [applyStop_idle c (.inr hr)])
    | reversing => simp [WindowRec.countsReversing, hr] at hb
    | runUp => exact (moving (.inl hr)).imp_right fun h => .inr (.inl h)
    | runDown => exact (moving (.inr hr)).imp_right fun h => .inr (.inl h)
    | queued =>
      cases hy : (s.windows.get w).yields k with
      | true => exact .inr (.inl ⟨_, by rw [applyStop_queued c hr hy]⟩)
      | false => exact .inl (by rw [applyStop_overruled c (.inl hr) hy])
    | brake =>
      cases hh : s.held (.window w) with
      | true =>
        cases he : s.entry? (.window w) with
        | none => exact .inl (by rw [applyStop_held_alone c hr hb hh he])
        | some e =>
          rw [applyStop_held_entry c hr hb hh he]
          split
          · exact .inr (.inl ⟨_, rfl⟩)
          · exact .inl rfl
      | false =>
        by_cases hn : (s.windows.get w).nextDir = none
        · exact .inl (by rw [applyStop_brake_idle c hr hb hh hn])
        · cases hy : (s.windows.get w).yields k with
          | true => exact .inr (.inr (.inr ⟨_, by rw [applyStop_brake_turn c hr hb hh hn hy]⟩))
          | false => exact .inl (by rw [applyStop_brake_overruled c hr hb hh hn hy])

theorem applyStop_search {c : StopCause} (w : Win) (k : Cls) (h : c ≠ .top) (s : State) :
    (applyStop w k c s).1.search = s.search := by
  obtain e | ⟨r, e⟩ | e | ⟨f, e⟩ := applyStop_cases w k c s
  · rw [e]
  · rw [e, withdrawMovement_search]
  · rw [e, stopRun_search w h]
  · rw [e]; rfl

theorem endComfort_search (s : State) : (endComfort s).search = s.search := by
  unfold endComfort
  rw [State.withComfort_search]
  generalize Win.list = ws
  induction ws generalizing s with
  | nil => rfl
  | cons w ws ih =>
    rw [List.foldl_cons, ih]
    split
    · exact applyStop_search w .access (c := .stopRequest) (by decide) s
    · rfl

theorem endPressComfort_search (s : State) : (endPressComfort s).search = s.search := by
  unfold endPressComfort
  split
  · exact endComfort_search s
  · rfl

/-! ### The access unit and the feedback unit at a crash (R131, R141, R155) -/

/-- A search in flight ends in CRASH (R141). -/
def crashSearch (s : State) : State := if s.search.state = .inFlight then endSearch .crash none none none s else s

theorem crashAccess_search (s : State) : (crashAccess s).search = (crashSearch s).search := endPressComfort_search _

theorem crashSearch_ends (h : s.search.state = .inFlight) : (crashSearch s).search =
    { s.search with
      state := .ended, due := none, outcome := some .crash, slot := none, zone := none, inside := none
      action := .none } := by
  rw [crashSearch, if_pos h]
  exact offer_search _ _

theorem crashSearch_keeps (h : s.search.state ≠ .inFlight) : crashSearch s = s := if_neg h

/-- No press in comfort is left, and none can come to be (R131). -/
theorem crashAccess_tracker (s : State) : (crashAccess s).tracker.eligible = false
    ∧ ∀ h, (crashAccess s).tracker.held = some h → h.comfort = false := by
  refine ⟨rfl, fun h hh => ?_⟩
  change Option.map _ _ = some h at hh
  obtain ⟨_, _, rfl⟩ := Option.map_eq_some_iff.1 hh
  rfl

/-! ### The windows at a crash (R82, R154) -/

theorem removeEntry_entry? (a : Actuator) (s : State) : (removeEntry a s).entry? a = none := by
  simp [State.entry?, removeEntry, setQueue]

theorem crashWithdraw_alone {w : Win} (h : s.entry? (.window w) = none) :
    crashWithdraw w s = s.modWindow w fun r => { r with normPhase := .none } :=
  if_neg (mt windowQueued_iff.1 (not_not.2 h))

theorem crashWithdraw_queued {w : Win} (h : s.entry? (.window w) ≠ none) : crashWithdraw w s =
    (clearMovement w (removeEntry (.window w) (s.modWindow w fun r => { r with normPhase := .none }))).modWindow w
      fun r => { r with run := if r.run = .queued then .stopped else r.run } :=
  if_pos (windowQueued_iff.2 h)

/-- The record of a window whose entry leaves at a crash. -/
theorem crashWithdraw_window {w : Win} (h : s.entry? (.window w) ≠ none) : (crashWithdraw w s).windows.get w =
    { s.windows.get w with
      run := if (s.windows.get w).run = .queued then .stopped else (s.windows.get w).run
      normPhase := .none, mode := none, source := none, cls := none } := by
  have hr : (removeEntry (.window w) (s.modWindow w fun r => { r with normPhase := .none })).windows.get w =
      { s.windows.get w with normPhase := .none } := modWindow_get w (fun r => { r with normPhase := .none }) s
  rw [crashWithdraw_queued h, modWindow_get, clearMovement_window, hr]

/-! ### A crash taken (R151 to R153, R156) -/

theorem takeCrash_latched (p : Option Port) (n : Nat) (h : s.crash.latched = true) :
    takeCrash p n s = furtherCrash p n s := if_pos h

theorem takeCrash_clear (p : Option Port) (n : Nat) (h : s.crash.latched = false) :
    takeCrash p n s = latchCrash p n s := if_neg (by rw [h]; decide)

theorem dismissAllLocking_eq (s : State) : dismissAllLocking s =
    dismissLocking .tg (dismissLocking .rr (dismissLocking .rl (dismissLocking .fr (dismissLocking .fl s)))) := by
  simp only [dismissAllLocking, Latch.list, List.foldl_cons, List.foldl_nil]

/-- The steps of a crash taken with the latch clear (R152, R153). -/
theorem latchCrash_eq (p : Option Port) (n : Nat) (s : State) : latchCrash p n s =
    (let u := offer .crashLatched (setCrash true n s)
     let x := runInternal { source := .crash, port := p, cls := .crash, action := .crashUnlock
                            members := Latch.list.map .lock, pattern := none }
       (u.withPresses { u.presses with relockDue := none })
     let v := dismissLocking .tg (dismissLocking .rr (dismissLocking .rl (dismissLocking .fr
       (dismissLocking .fl x.1))))
     (silence (crashAccess (crashWindows v)), x.2)) := by
  simp only [latchCrash, dismissAllLocking_eq, crashUnlock, allLatches]

/-- A further crash raises the severity, and unlocks what is not UNLOCKED (R156). -/
theorem furtherCrash_eq (p : Option Port) (n : Nat) (s : State) : furtherCrash p n s =
    (let u := if s.crash.severity < n then setCrash true n s else s
     unlockLocked p (u.withPresses { u.presses with relockDue := none })) := by
  unfold furtherCrash
  dsimp only
  by_cases h : s.crash.severity < n
  · rw [if_pos h, Nat.max_eq_right (Nat.le_of_lt h), if_neg (Nat.ne_of_gt h)]
  · rw [if_neg h, if_pos (Nat.max_eq_left (Nat.le_of_not_lt h))]

/-- In any run state the latches not UNLOCKED, if any, are unlocked by one group in RUN (R156, R201). -/
theorem unlockLocked_cases (p : Option Port) (s : State) : unlockLocked p s =
    if s.lockedLatches = [] then (s, 0) else crashUnlock p s.lockedLatches (wake s) := by
  unfold unlockLocked
  split
  next e => rw [if_pos e]
  next hn => rw [if_neg hn]

theorem dismissLocking_locking {l : Latch} {e : Entry} (h : s.entry? (.lock l) = some e)
    (hd : e.dir = .lock ∨ e.dir = .deadlock) : dismissLocking l s = dismissEntry e s := by
  simp only [dismissLocking, h, if_pos hd]

theorem dismissLocking_other {l : Latch} (h : ∀ e, s.entry? (.lock l) = some e → e.dir ≠ .lock ∧ e.dir ≠ .deadlock) :
    dismissLocking l s = s := by
  unfold dismissLocking
  split
  next e he => exact if_neg (not_or.2 (h e he))
  next => rfl

theorem exec_crashNotice (dt : Time) (p : Port) (l : List Byte) (s : State) :
    exec (.crashNotice dt p l) s = onRequest dt p 0x60 l crashNoticeOwner s := rfl

/-- A well-formed notice is a crash (R151). -/
theorem crashNoticeOwner_takes {b : Byte} (p : Port) (u : State) (h : 1 ≤ b.toNat ∧ b.toNat ≤ 3) :
    crashNoticeOwner p [b] u = ((takeCrash (some p) b.toNat u).1,
      { result := .ok, payload := [byteOf (takeCrash (some p) b.toNat u).2] }) := if_pos h

/-- Settles O48. -/
theorem crashNoticeTaken : Obligations.CrashNoticeTaken := by
  refine ⟨fun dt p b s hr ha h1 h3 => ?notice, fun p n s => ?further,
    fun l s => ⟨fun e h hd => dismissLocking_locking h hd, dismissLocking_other⟩, fun b n s => rfl, fun s => ?units,
    fun s => rfl, fun w s => ⟨crashWithdraw_alone, fun h => ?withdrawn⟩,
    fun p n s => ⟨takeCrash_latched p n, fun h => (takeCrash_clear p n h).trans (latchCrash_eq p n s)⟩⟩
  case notice =>
    rw [exec_crashNotice, onRequest_admitted dt p 0x60 [b] _ hr ha (by simp), crashNoticeOwner_takes p _ ⟨h1, h3⟩]
    refine ⟨fun h => ?_, fun h => ?_⟩
    · rw [takeCrash_clear _ _ (by rw [atOwner_crash, h]), latchCrash_eq]
    · rw [takeCrash_latched _ _ (by rw [atOwner_crash, h])]
  case further =>
    rw [furtherCrash_eq]
    dsimp only
    rw [unlockLocked_cases, State.lockedLatches]
    rfl
  case units =>
    obtain ⟨he, hc⟩ := crashAccess_tracker s
    refine ⟨_, rfl, rfl, he, hc, fun h => ?_, fun h => ?_⟩
    · have hs := (crashAccess_search s).trans (crashSearch_ends h)
      exact ⟨congrArg SearchRec.state hs, congrArg SearchRec.outcome hs, congrArg SearchRec.due hs⟩
    · exact (crashAccess_search s).trans (congrArg State.search (crashSearch_keeps h))
  case withdrawn =>
    have hw := crashWithdraw_window h
    refine ⟨_, rfl, ?_, by rw [hw], by rw [hw], by rw [hw], by rw [hw], ?_⟩
    · rw [crashWithdraw_queued h]
      exact removeEntry_entry? _ _
    · rw [crashWithdraw_queued h]
      rfl

end Sys2Proof.Machine
end

section
/-! The feedback unit: pattern requests, playback from phase to phase and from entry to entry, and the two outputs (R159 to
R165). -/

namespace Sys2Proof.Machine

variable {s : State} {i : Fin 8}

@[simp] theorem withFeedback_cfg (s : State) (x : Feedback) : (s.withFeedback x).cfg = s.cfg := rfl

@[simp] theorem withFeedback_twice (s : State) (x y : Feedback) : (s.withFeedback x).withFeedback y = s.withFeedback y := rfl

/-! ### Pattern requests (R163, R165) -/

/-- On an empty queue a request begins at once, and in STARTING it waits (R163). -/
theorem patternRequest_empty (i : Fin 8) (h : s.feedback.queue = []) : patternRequest i s =
    if s.sys.mode = .starting then s.withFeedback { s.feedback with queue := [i] }
    else startPlayback (s.withFeedback { s.feedback with queue := [i] }) := by
  rw [patternRequest, h]
  rfl

/-- Behind a head a request takes the tail: its own place, or that of the fourth entry. -/
theorem patternRequest_behind (i : Fin 8) (h : s.feedback.queue ≠ []) : patternRequest i s =
    s.withFeedback { s.feedback with
      queue := (if 4 ≤ s.feedback.queue.length then s.feedback.queue.dropLast else s.feedback.queue) ++ [i] } := by
  unfold patternRequest
  split
  next e => exact absurd e h
  next => rfl

/-- Settles O50. -/
theorem fullQueueReplacesTail : Obligations.FullQueueReplacesTail := by
  refine ⟨fun a b c d i s h => ?full, fun i s hne hlt => ?room, fun i s h => ⟨fun hm => ?waits, fun hm => ?begins⟩⟩
  case full =>
    rw [patternRequest_behind i (by simp [h]), h]
    rfl
  case room => rw [patternRequest_behind i hne, if_neg (Nat.not_le.2 hlt)]
  case waits => rw [patternRequest_empty i h, if_pos hm]
  case begins => rw [patternRequest_empty i h, if_neg hm]

/-! ### The phase that follows (R160) -/

section Phases

variable {pb : Playback} (t : Time)

theorem Playback.next_flashOn (h : pb.phase = .flashOn) :
    pb.next t = some { pb with phase := .flashOff, due := t + pb.offTime } := by
  simp only [Playback.next, h]

theorem Playback.next_flashOff (h : pb.phase = .flashOff) : pb.next t =
    if pb.flash < pb.flashes then some { pb with phase := .flashOn, flash := pb.flash + 1, due := t + pb.onTime }
    else if 0 < pb.chirps then some { pb with phase := .chirpOn, chirp := 1, due := t + msec 60 }
    else none := by
  simp only [Playback.next, h]

theorem Playback.next_chirpOn (h : pb.phase = .chirpOn) :
    pb.next t = some { pb with phase := .chirpOff, due := t + msec 60 } := by
  simp only [Playback.next, h]

theorem Playback.next_chirpOff (h : pb.phase = .chirpOff) : pb.next t =
    if pb.chirp < pb.chirps then some { pb with phase := .chirpOn, chirp := pb.chirp + 1, due := t + msec 60 }
    else none := by
  simp only [Playback.next, h]

end Phases

/-! ### An entry as it becomes the head (R159, R160, R164) -/

theorem playOf_flashes {img : Image} (t : Time) (h : 0 < img.flashes i) : playOf img i t =
    some { phase := .flashOn, flash := 1, chirp := 0, flashes := img.flashes i, onTime := img.onTime i
           offTime := img.offTime i, chirps := img.chirps i, divider := img.divider i, due := t + img.onTime i } :=
  if_pos h

theorem playOf_chirps {img : Image} (t : Time) (h : img.flashes i = 0) (hc : 0 < img.chirps i) : playOf img i t =
    some { phase := .chirpOn, flash := 0, chirp := 1, flashes := 0, onTime := img.onTime i, offTime := img.offTime i
           chirps := img.chirps i, divider := img.divider i, due := t + msec 60 } := by
  simp only [playOf, h, Nat.lt_irrefl, if_false, if_pos hc]

/-- An entry of duration 0 has no playback. -/
theorem playOf_none {img : Image} (t : Time) (h : img.flashes i = 0) (hc : img.chirps i = 0) : playOf img i t = none := by
  simp only [playOf, h, hc, Nat.lt_irrefl, if_false]

/-- With the last entry gone the unit is IDLE (R164). -/
theorem startPlayback_idle (h : s.feedback.queue = []) : startPlayback s = s.withFeedback { queue := [], playing := none } := by
  rw [startPlayback, h, beginHead]

section Heads

variable {rest : List (Fin 8)} (h : s.feedback.queue = i :: rest)

include h

/-- A head with a playback plays it and stays in the queue. -/
theorem startPlayback_plays {pb : Playback} (hp : playOf s.cfg i s.now = some pb) :
    startPlayback s = s.withFeedback { queue := i :: rest, playing := some pb } := by
  simp only [startPlayback, h, beginHead, hp]

/-- A head without a playback leaves at once, and the entry behind it begins at that moment (R164). -/
theorem startPlayback_skips (hp : playOf s.cfg i s.now = none) :
    startPlayback s = startPlayback (s.withFeedback { s.feedback with queue := rest }) := by
  simp only [startPlayback, h, beginHead, hp, withFeedback_cfg, State.withFeedback_now, State.withFeedback_feedback,
    withFeedback_twice]

end Heads

/-! ### The end of a phase (R160, R164) -/

section PhaseEnds

variable {pb : Playback}

theorem exec_patternPhaseEnd (h : s.feedback.playing = some pb) :
    exec .patternPhaseEnd s = .next (refreshPark (endPhase pb (reach pb.due s))) := by
  show execPatternPhaseEnd s = _
  rw [execPatternPhaseEnd, h]
  exact onTimer_due _ _

theorem endPhase_continues {q : Playback} (h : pb.next s.now = some q) :
    endPhase pb s = s.withFeedback { s.feedback with playing := some q } := by
  rw [endPhase, h]

theorem endPhase_ends (h : pb.next s.now = none) :
    endPhase pb s = startPlayback (s.withFeedback { s.feedback with queue := s.feedback.queue.tail }) := by
  rw [endPhase, h]

end PhaseEnds

/-! ### The outputs (R161, R162) -/

/-- INDICATOR is active in FLASH_ON alone (R161). -/
theorem indicator_iff : s.indicator = true ↔ ∃ pb, s.feedback.playing = some pb ∧ pb.phase = .flashOn := by
  simp [State.indicator, Option.any_eq_true]

/-- SOUNDER is active in CHIRP_ON alone (R162). -/
theorem sounder_iff : s.sounder = true ↔ ∃ pb, s.feedback.playing = some pb ∧ pb.phase = .chirpOn := by
  simp [State.sounder, Option.any_eq_true]

/-- The wave is high in its even half-periods, counted from 0 (R162). -/
theorem Playback.wave_iff (pb : Playback) (t : Time) : pb.wave t = true ↔ t / ((pb.divider + 1) * 4) % 2 = 0 :=
  beq_iff_eq

/-- The level of SOUNDER is that of the wave since the chirp began, 60 ms before its due end, and low outside a chirp. -/
theorem sounderLevel_iff : s.sounderLevel = true ↔ ∃ pb, s.feedback.playing = some pb ∧ pb.phase = .chirpOn
    ∧ s.now < pb.due ∧ pb.wave (s.now + msec 60 - pb.due) = true := by
  simp [State.sounderLevel, Option.any_eq_true, and_assoc]

/-- Settles O51. -/
theorem patternPhaseEnds : Obligations.PatternPhaseEnds := by
  refine ⟨fun pb s h => ?step, fun pb t => ?phases, fun i rest s hq hf => startPlayback_plays hq (playOf_flashes _ hf),
    fun s h => startPlayback_idle h, fun i rest s hq hf =>
      ⟨fun hc => startPlayback_plays hq (playOf_chirps _ hf hc), fun hc => startPlayback_skips hq (playOf_none _ hf hc)⟩,
    fun s => ⟨indicator_iff, sounder_iff, fun pb hp hc hd => ?wave, fun h => ?low⟩⟩
  case step =>
    rw [exec_patternPhaseEnd h]
    refine ⟨fun q hn => ?_, fun hn => ?_⟩
    · rw [endPhase_continues (by rwa [reach_now]), reach_feedback]
    · rw [endPhase_ends (by rwa [reach_now]), reach_feedback]
  case phases =>
    refine ⟨pb.next_flashOn t, fun h hl => ?_, fun h hl hc => ?_, pb.next_chirpOn t, fun h hl => ?_,
      fun h hl hc => ?_, fun h hl => ?_⟩
    · rw [pb.next_flashOff t h, if_pos hl]
    · rw [pb.next_flashOff t h, if_neg (Nat.not_lt.2 hl), if_pos hc]
    · rw [pb.next_chirpOff t h, if_pos hl]
    · rw [pb.next_flashOff t h, if_neg (Nat.not_lt.2 hl), if_neg (by omega)]
    · rw [pb.next_chirpOff t h, if_neg (Nat.not_lt.2 hl)]
  case wave =>
    rw [sounderLevel_iff, ← pb.wave_iff]
    constructor
    · rintro ⟨pb', hp', -, -, hw⟩
      rwa [Option.some.inj (hp.symm.trans hp')]
    · exact fun hw => ⟨pb, hp, hc, hd, hw⟩
  case low =>
    rw [← Bool.not_eq_true, sounderLevel_iff]
    rintro ⟨pb, hp, hc, hd, -⟩
    exact (h pb hp).elim (fun hn => hn hc) fun hle => Nat.not_lt.2 hle hd

end Sys2Proof.Machine
end

section
/-! The store: row programs with their relocation and the end of the spares (R171 to R174), and queued writes of a row (R170,
R202). -/

namespace Sys2Proof.Machine

variable {s : State}

/-! ### A program starts (R171) -/

theorem supplyGate_iff : s.supplyGate = true ↔ ∃ v, s.supply.vf = some v ∧ 8000 ≤ v := by
  unfold State.supplyGate
  split
  next v h => simp [h]
  next h => simp [h]

/-- What ROW_PROGRAM_START waits for beside a row in the store queue (R171). -/
abbrev State.programmable (s : State) : Prop :=
  s.store.program.isNone = true ∧ s.sys.mode ≠ .park ∧ s.supplyGate = true

theorem exec_rowProgramStart {l : LRow} {rest : List LRow} (hr : s.sys.inReset = false)
    (hq : s.store.queue = l :: rest) (h : s.programmable) :
    exec .rowProgramStart s = .next (refreshPark (startProgram l rest s)) := by
  show execRowProgramStart s = _
  rw [execRowProgramStart, finish_awake _ hr, hq]
  dsimp only
  rw [if_pos h]

theorem exec_rowProgramStart_waits (hr : s.sys.inReset = false) (h : s.store.queue = [] ∨ ¬ s.programmable) :
    exec .rowProgramStart s = .next (refreshPark s) := by
  show execRowProgramStart s = _
  rw [execRowProgramStart, finish_awake _ hr]
  split
  next hq => rw [if_neg (h.resolve_left (by simp [hq]))]
  next => rfl

/-! ### A program ends with its verify (R172 to R174) -/

/-- The end of the program in flight, at its instant. -/
theorem exec_rowProgramEnd {g : Program} (x : Option PhysRow) (h : s.store.program = some g) :
    exec (.rowProgramEnd x) s = .next (refreshPark (endProgram g x (reach g.due s))) := by
  show execRowProgramEnd x s = _
  rw [execRowProgramEnd, h]
  rfl

/-- A row that reads back as it was written passes its verify (R172). -/
theorem endProgram_verified (g : Program) (s : State) : endProgram g none s =
    programDone g (s.withStore { s.store with array := s.store.array.set g.target (rowBytes g.row g.generation g.content) }) :=
  if_pos rfl

/-- A row that reads back otherwise fails it (R173). -/
theorem endProgram_mismatch {g : Program} {x : PhysRow} (h : x ≠ rowBytes g.row g.generation g.content) (s : State) :
    endProgram g (some x) s = programFailed g (s.withStore { s.store with array := s.store.array.set g.target x }) :=
  if_neg h

/-- The target is RETIRED, and the row goes to the lowest FREE spare, or becomes volatile (R173, R174). -/
theorem programFailed_eq (g : Program) (s : State) : programFailed g s =
    (let u := offer .storeRetired (s.withStore { s.store with map := s.store.map.set g.target .retired })
     match freeSpare (s.store.map.set g.target .retired) with
     | some r => relocate g r u
     | none => exhaust g u) := by
  rw [programFailed, offer_store]
  rfl

/-- Settles O52. -/
theorem rowProgramsRun : Obligations.RowProgramsRun := by
  refine ⟨fun l rest v s hr hq hp hm hv hle => ?starts, fun s hr h => ?waits, fun g s h => ?verified,
    fun g x s h hx => ?failed, fun m => ⟨fun r => freeSpare_some, freeSpare_none⟩, fun g r s => rfl, fun g s => rfl⟩
  case starts =>
    exact exec_rowProgramStart hr hq ⟨by simp [hp], hm, supplyGate_iff.2 ⟨v, hv, hle⟩⟩
  case waits =>
    refine exec_rowProgramStart_waits hr (h.imp_right fun h => ?_)
    rintro ⟨hp, hm, hg⟩
    obtain ⟨v, hv, hle⟩ := supplyGate_iff.1 hg
    obtain h | h | h | ⟨u, hu, hlt⟩ := h
    · exact h (Option.isNone_iff_eq_none.1 hp)
    · exact hm h
    · simp [hv] at h
    · have : v = u := Option.some.inj (hv.symm.trans hu)
      omega
  case verified =>
    rw [exec_rowProgramEnd none h, endProgram_verified]
    rfl
  case failed =>
    rw [exec_rowProgramEnd (some x) h, endProgram_mismatch hx, programFailed_eq]
    rfl

/-! ### Queued writes (R170, R202) -/

/-- The write of a volatile row changes its shadow alone, in PARK too (R170). -/
theorem storeWrite_volatile {l : LRow} (c : Content) (h : s.store.shadows[l].isVolatile = true) :
    storeWrite l c s = s.setRow l c := if_pos h

theorem wake_store (s : State) : (wake s).store = s.store := by
  unfold wake
  split <;> rfl

/-- A write that gets an entry wakes the part first (R202). -/
theorem storeWrite_wake {l : LRow} (c : Content) (hp : s.sys.mode = .park)
    (h : s.store.shadows[l].isVolatile = false) : storeWrite l c s = storeWrite l c (wake s) := by
  have hn : ¬ s.store.shadows[l].isVolatile = true := by rw [h]; decide
  have hw : wake (wake s) = wake s := wake_running (wake_mode hp)
  rw [storeWrite, storeWrite, wake_store, hw, if_neg hn, if_neg hn]

/-- Settles O53. -/
theorem storeWritesQueued : Obligations.StoreWritesQueued := by
  refine ⟨fun l c s h => ?queued, fun l c s hp hv => ⟨storeWrite_wake c hp hv, wake_mode hp⟩,
    fun l m c s => ⟨?written, fun hm => ?others, ?array, ?program⟩, fun i b s => rfl⟩
  case queued =>
    rw [← storeWrite_store]
    obtain h | h := h
    · exact storeWrite_alone l c h
    · rw [storeWrite_volatile c h]
      rfl
  case written => rw [storeWrite_row, if_pos rfl]
  case others => rw [storeWrite_row, if_neg hm]
  case array => rw [storeWrite_store]
  case program => rw [storeWrite_store]

end Sys2Proof.Machine
end

section
/-! Rows of the array as a program writes them and as the scan reads them, and the check byte over them (R168, R172, R183). -/

namespace Sys2Proof.Machine

/-- One shift of the register: a 1 shifted out brings the polynomial in (R183). -/
theorem crcShift_eq : crcShift = fun r : Byte => if r.getLsbD 7 = true then (r <<< 1) ^^^ 0x1D else r <<< 1 := by
  funext r
  rw [crcShift, BitVec.msb_eq_getLsbD_last]
  rfl

/-- The register is the check byte before its inversion (R183). -/
theorem crcRegister_eq (l : List Byte) : l.foldl crcByte 0xFF#8 = crc8 l ^^^ 0xFF#8 := by
  rw [crc8, BitVec.xor_assoc, BitVec.xor_self, BitVec.xor_zero]

/-- One byte more is one more byte taken into the register (R183). -/
theorem crc8_append (l : List Byte) (b : Byte) : crc8 (l ++ [b]) = crcByte (crc8 l ^^^ 0xFF#8) b ^^^ 0xFF#8 := by
  rw [← crcRegister_eq, crc8, List.foldl_append]
  rfl

theorem byteOf_row (l : LRow) : (byteOf l.val).toNat = l.val := by
  rw [byteOf, BitVec.toNat_ofNat]
  omega

/-- The scan reads a written row as the claim that was written (R168, R172). -/
theorem rowBytes_claim (l : LRow) (g : Byte) (c : Content) : (rowBytes l g c).claim = some (l, g, c) := by
  have hl : (byteOf l.val).toNat < 35 := by rw [byteOf_row]; exact l.isLt
  have e : (⟨(byteOf l.val).toNat, hl⟩ : LRow) = l := Fin.ext (byteOf_row l)
  simp only [rowBytes, PhysRow.claim, dif_pos hl, if_pos, e]

/-- Settles O54. -/
theorem rowsClaimed : Obligations.RowsClaimed := by
  refine ⟨fun l g c => ⟨rowBytes_claim l g c, rfl⟩, rfl, fun l b => ?_⟩
  rw [crc8_append, crcByte, crcShift_eq]
  rfl

end Sys2Proof.Machine
end

section
/-! The configuration image: bytes staged into it, its fields limited to their ranges, and its parts in the rows 0 to 3 (R169,
R180, R181, section 9.6). -/

namespace Sys2Proof.Machine

/-! ### Bytes of an image -/

/-- A byte inside a padded list is the list's own, 00h beyond its end. -/
theorem padBytes_getD {n i : Nat} (l : List Byte) (h : i < n) : (padBytes n l).toList.getD i 0#8 = l.getD i 0#8 := by
  show ((l ++ List.replicate n 0#8).take n).getD i 0#8 = _
  simp only [List.getD_eq_getElem?_getD, List.getElem?_take, if_pos h, List.getElem?_append, List.getElem?_replicate]
  split
  next => rfl
  next hl =>
    rw [List.getElem?_eq_none (Nat.not_lt.1 hl)]
    split <;> rfl

theorem byte_lt (img : Image) (i : Nat) : img.byte i < 256 := BitVec.isLt _

/-- The staging image: the data bytes from the offset on, every other byte as it stood (R180). -/
theorem stageBytes_getD (img : Image) (off : Nat) {i : Nat} (data : List Byte) (h : i < 52) :
    (stageBytes img off data).toList.getD i 0#8 =
      if off ≤ i ∧ i < off + data.length then data.getD (i - off) 0#8 else img.toList.getD i 0#8 := by
  have hlen : img.toList.length = 52 := Vector.length_toList
  rw [stageBytes, padBytes_getD _ h]
  simp only [List.getD_eq_getElem?_getD, List.getElem?_append, List.length_append, List.length_take, hlen]
  by_cases hoff : i < off
  · rw [if_pos (by omega), if_pos (by omega), if_neg (by omega), List.getElem?_take_of_lt hoff]
  · have hmin : min off 52 = off := by omega
    rw [hmin]
    by_cases hend : i < off + data.length
    · rw [if_pos hend, if_neg hoff, if_pos ⟨Nat.not_lt.1 hoff, hend⟩]
    · rw [if_neg hend, if_neg (fun k => hend k.2), List.getElem?_drop, Nat.add_sub_of_le (Nat.not_lt.1 hend)]

/-- The bytes that a commit writes to row `i` (R182). -/
theorem part_eq (img : Image) (i : Nat) : padBytes 13 ((img.toList.drop (13 * i)).take 13) = img.part i := by
  apply Vector.toList_inj.1
  show (((img.toList.drop (13 * i)).take 13) ++ List.replicate 13 0#8).take 13
    = (img.toList.drop (13 * i) ++ List.replicate 13 0#8).take 13
  rw [List.take_append, List.take_append, List.take_take, Nat.min_self, List.length_take]
  congr 2
  omega

/-! ### The limiting (R181) -/

/-- Every limited field fits into its byte. -/
theorem limitedByte_lt (img : Image) (i : Nat) : img.limitedByte i < 256 := by
  have hi := byte_lt img i
  have h0 := byte_lt img 0
  unfold Image.limitedByte Image.retryCount clampNat
  dsimp only
  split
  case h_4 => split <;> omega
  case h_21 => split <;> omega
  all_goals omega

theorem limited_byte (img : Image) {i : Nat} (h : i < 52) : img.limited.byte i = img.limitedByte i := by
  have e : ((List.range 52).map fun i => byteOf (img.limitedByte i)).getD i 0#8 = byteOf (img.limitedByte i) := by
    simp [List.getD_eq_getElem?_getD, h]
  rw [Image.byte, Image.limited, padBytes_getD _ h, e, byteOf, BitVec.toNat_ofNat,
    Nat.mod_eq_of_lt (limitedByte_lt img i)]

/-- The fields of one byte with a plain range: byte, least and greatest value (section 9.6). -/
def plainRanges : List (Nat × Nat × Nat) :=
  [(2, 20, 80), (4, 0, 60), (5, 4, 64), (8, 13, 77), (9, 25, 200), (10, 2, 128), (11, 40, 150), (12, 5, 50), (13, 0, 50)
    , (14, 2, 60)]

theorem limited_plain (img : Image) :
    ∀ x ∈ plainRanges, img.limited.byte x.1 = clampNat (img.byte x.1) x.2.1 x.2.2 := by
  simp only [plainRanges, List.forall_mem_cons]
  refine ⟨?_, ?_, ?_, ?_, ?_, ?_, ?_, ?_, ?_, ?_, List.forall_mem_nil _⟩
  all_goals exact limited_byte img (by decide)

theorem limited_pdetect (img : Image) : img.limited.pdetect = clampNat img.pdetect 256 2047 := by
  rw [Image.pdetect, limited_byte img (by decide), limited_byte img (by decide)]
  exact Nat.div_add_mod' (clampNat img.pdetect 256 2047) 256

/-- The port masks, the wake mask and the commit count are kept. -/
theorem limited_kept (img : Image) : ∀ i ∈ [15, 16, 17, 18, 51], img.limited.byte i = img.byte i := by
  simp only [List.forall_mem_cons]
  refine ⟨?_, ?_, ?_, ?_, ?_, List.forall_mem_nil _⟩
  all_goals exact limited_byte img (by decide)

/-- The four bytes of an entry of the pattern table (R159). -/
theorem limited_pattern (img : Image) {i : Nat} (h : i < 8) :
    img.limited.byte (19 + 4 * i) = img.byte (19 + 4 * i) / 16 % 4 * 16 + img.byte (19 + 4 * i) % 8
      ∧ img.limited.byte (20 + 4 * i) = clampNat (img.byte (20 + 4 * i)) 5 50
      ∧ img.limited.byte (21 + 4 * i) = clampNat (img.byte (21 + 4 * i)) 5 50
      ∧ img.limited.byte (22 + 4 * i) = img.byte (22 + 4 * i) := by
  rw [limited_byte img (by omega), limited_byte img (by omega), limited_byte img (by omega), limited_byte img (by omega)]
  interval_cases i <;> exact ⟨rfl, rfl, rfl, rfl⟩

end Sys2Proof.Machine
end

section
/-! STAGE_CONFIG and COMMIT_CONFIG, and a commit that takes effect (R180 to R182, section 9.6). -/

namespace Sys2Proof.Machine

variable {s : State} {dt : Time} {p : Port} {off check : Byte} {data : List Byte}

/-! ### STAGE_CONFIG (R180) -/

theorem atOwner_staged (dt : Time) (p : Port) : (atOwner dt p s).staged = s.store.staging.getD s.cfg := by
  rw [State.staged, atOwner_store, atOwner_cfg]

theorem exec_stageConfig (h : Receiving s p) (ha : Admitted s p 7) (hl : data.length ≤ 13) :
    exec (.stageConfig dt p (off :: data)) s = .next (answered p 0x70 (stageOwner p (off :: data) (atOwner dt p s)).2
      (stageOwner p (off :: data) (atOwner dt p s)).1) :=
  onRequest_admitted dt p 0x70 _ stageOwner h ha (Nat.succ_le_succ hl)

theorem stageOwner_badArgument (h : data.length < 1 ∨ 12 < data.length ∨ 51 < off.toNat) :
    stageOwner p (off :: data) s = refuse .badArgument s := if_pos h

theorem stageOwner_moving (h : ¬ (data.length < 1 ∨ 12 < data.length ∨ 51 < off.toNat)) (hm : s.effSpeed = .moving) :
    stageOwner p (off :: data) s = refuse .moving s := (if_neg h).trans (if_pos hm)

theorem stageOwner_staged (h : ¬ (data.length < 1 ∨ 12 < data.length ∨ 51 < off.toNat)) (hm : s.effSpeed ≠ .moving) :
    stageOwner p (off :: data) s =
      (s.withStore { s.store with staging := some (stageBytes s.staged off.toNat data) },
        { result := .ok, payload := [byteOf (min data.length (52 - off.toNat))] }) := (if_neg h).trans (if_neg hm)

/-! ### COMMIT_CONFIG (R181) -/

theorem exec_commitConfig (h : Receiving s p) (ha : Admitted s p 7) :
    exec (.commitConfig dt p [check]) s = .next (answered p 0x71 (commitOwner p [check] (atOwner dt p s)).2
      (commitOwner p [check] (atOwner dt p s)).1) :=
  onRequest_admitted dt p 0x71 _ commitOwner h ha (Nat.succ_le_succ (Nat.zero_le 13))

theorem commitOwner_moving (h : s.effSpeed = .moving) : commitOwner p [check] s = refuse .moving s := if_pos h

theorem commitOwner_mismatch (h : s.effSpeed ≠ .moving) (hc : crc8 s.staged.toList ≠ check) : commitOwner p [check] s =
    (offer .configRejected (s.withStore { s.store with staging := none }), Reply.of .checkMismatch) :=
  (if_neg h).trans (if_pos hc)

theorem commitOwner_match (h : s.effSpeed ≠ .moving) (hc : crc8 s.staged.toList = check) : commitOwner p [check] s =
    (commitImage (s.staged.limited.withCount (min 255 (s.cfg.commitCount + 1))) s,
      { result := if s.staged.limited = s.staged then .ok else .clamped
        payload := [byteOf (min 255 (s.cfg.commitCount + 1))] }) :=
  (if_neg h).trans (if_neg (not_not.2 hc))

/-! ### The effect of a commit (R182) -/

theorem cfg_of_store {t : State} (h : t.store = s.store) : t.cfg = s.cfg := by
  simp only [State.cfg, State.row, h]

/-- Rows 0 to 3 written from an image make it the live one (R169, R182). -/
theorem writeImage_cfg (img : Image) (s : State) : (writeImage img s).cfg = img := by
  refine cfg_of_parts fun i => ?_
  fin_cases i <;> simp [writeImage, cfgRow, storeWrite_row]

/-- The part with a new live image, before the rear inhibit is evaluated (R182). -/
def State.committed (img : Image) (s : State) : State :=
  offer .configCommitted (writeImage img (s.withStore { s.store with staging := none }))

theorem childLink_eq_iff (x y : Image) : x.childLink = y.childLink ↔ x.byte 1 / 2 % 2 = y.byte 1 / 2 % 2 := by
  unfold Image.childLink
  rw [Bool.eq_iff_iff, beq_iff_eq, beq_iff_eq]
  omega

/-- A commit that changes the link flag evaluates the rear inhibit on both sides (R63, R182). -/
theorem commitImage_eq (img : Image) (s : State) : commitImage img s =
    if img.byte 1 / 2 % 2 = s.cfg.byte 1 / 2 % 2 then s.committed img else evalInhibits (s.committed img) := by
  simp only [← childLink_eq_iff]
  rfl

theorem committed_cfg (img : Image) (s : State) : (s.committed img).cfg = img :=
  (cfg_of_store (offer_store _ _)).trans (writeImage_cfg img _)

/-- Settles O55. -/
theorem configStagedAndCommitted : Obligations.ConfigStagedAndCommitted := by
  refine ⟨fun dt p off data s h ha hl => ?stage, fun dt p check s h ha hv => ⟨fun hc => ?mismatch, fun hc => ?matched⟩,
    fun dt p check s h ha hv => ?moving, fun img off i data hi => stageBytes_getD img off data hi,
    fun img s => ?effect, fun img => ?limits, fun img => ?fields⟩
  case stage =>
    rw [exec_stageConfig h ha hl]
    dsimp only
    by_cases hb : data.length = 0 ∨ data.length = 13 ∨ 51 < off.toNat
    · rw [if_pos hb, stageOwner_badArgument (by omega)]
      rfl
    · have hb' : ¬ (data.length < 1 ∨ 12 < data.length ∨ 51 < off.toNat) := by omega
      rw [if_neg hb]
      by_cases hv : s.effSpeed = .moving
      · rw [if_pos hv, stageOwner_moving hb' (by rw [atOwner_effSpeed, hv])]
        rfl
      · rw [if_neg hv, stageOwner_staged hb' (by rw [atOwner_effSpeed]; exact hv), atOwner_staged, atOwner_store]
  case mismatch =>
    rw [exec_commitConfig h ha, commitOwner_mismatch (by rw [atOwner_effSpeed, hv]; decide)
      (by rw [atOwner_staged]; exact hc), atOwner_store]
  case matched =>
    rw [exec_commitConfig h ha, commitOwner_match (by rw [atOwner_effSpeed, hv]; decide)
      (by rw [atOwner_staged]; exact hc), atOwner_staged, atOwner_cfg]
  case moving =>
    rw [exec_commitConfig h ha, commitOwner_moving (by rw [atOwner_effSpeed, hv])]
    rfl
  case effect =>
    dsimp only
    rw [part_eq, part_eq, part_eq, part_eq]
    refine ⟨committed_cfg img s, fun hk => ?_, fun hk => ?_⟩
    · rw [commitImage_eq, if_pos hk]
      rfl
    · rw [commitImage_eq, if_neg hk]
      rfl
  case limits =>
    exact ⟨limited_byte img (by decide), limited_byte img (by decide), limited_byte img (by decide),
      limited_pdetect img, limited_plain img, limited_kept img, fun i hi => limited_pattern img hi⟩
  case fields =>
    exact ⟨congrArg msec (Nat.mul_comm _ _), rfl, beq_iff_eq, beq_iff_eq, beq_iff_eq, beq_iff_eq, rfl,
      congrArg msec (Nat.mul_comm _ _), rfl, congrArg sec (Nat.mul_comm _ _), rfl, rfl, rfl, Nat.mul_comm _ _,
      Nat.mul_comm _ _, congrArg msec (Nat.mul_comm _ _), rfl, rfl, rfl, fun _ => beq_iff_eq, rfl, rfl, rfl, rfl⟩

end Sys2Proof.Machine
end

section
/-! The falling edge of CS, the response frame it builds, and the bits on SDO (R184, R191, R202). -/

namespace Sys2Proof.Machine

variable {s : State}

/-! ### What a step's last act leaves (R200) -/

theorem refreshPark_pins (s : State) : (refreshPark s).pins = s.pins := by
  rw [refreshPark_alone, State.withSys_pins]

theorem refreshPark_ports (s : State) : (refreshPark s).ports = s.ports := by
  rw [refreshPark_alone, State.withSys_ports]

theorem refreshPark_events (s : State) : (refreshPark s).events = s.events := by
  rw [refreshPark_alone, State.withSys_events]

theorem refreshPark_store (s : State) : (refreshPark s).store = s.store := by
  rw [refreshPark_alone, State.withSys_store]

/-! ### The falling edge of CS (R184) -/

theorem exec_chipSelectFall {p : Port} (dt : Time) (hr : s.sys.inReset = false) (hc : s.pins.cs.get p = false) :
    exec (.chipSelectFall dt p) s = .next (refreshPark (csFall p (advance dt s))) := by
  show execChipSelectFall dt p s = _
  simp only [execChipSelectFall, advance_sys, advance_pins, hr, hc, Bool.false_eq_true, if_false]

theorem exec_chipSelectFall_active {p : Port} (dt : Time) (hr : s.sys.inReset = false) (hc : s.pins.cs.get p = true) :
    exec (.chipSelectFall dt p) s = .next (refreshPark (advance dt s)) := by
  show execChipSelectFall dt p s = _
  simp only [execChipSelectFall, advance_sys, advance_pins, hr, hc, Bool.false_eq_true, if_false, if_true]

theorem exec_chipSelectFall_inReset (dt : Time) (p : Port) (hr : s.sys.inReset = true) :
    exec (.chipSelectFall dt p) s = .next ((advance dt s).withPins { s.pins with cs := s.pins.cs.set p true }) :=
  if_pos hr

/-- In RUN the receiver becomes RECEIVING with the response built from what stands there (R184, R191). -/
theorem csFall_run (p : Port) (h : s.sys.mode = .run) : csFall p s =
    (s.withPins { s.pins with cs := s.pins.cs.set p true }).modPort p fun u =>
      { u with receiving := true, sdo := s.responseFrame p } := by
  unfold csFall
  rw [wake_running (by exact h)]
  rfl

/-- The return to RUN and the level of a pin do not meet (R202). -/
theorem wake_withPins (s : State) (x : Pins) : wake (s.withPins x) = (wake s).withPins x := by
  unfold wake
  rw [State.withPins_sys]
  split <;> rfl

theorem wake_pins (s : State) : (wake s).pins = s.pins := by
  unfold wake
  split <;> rfl

theorem wake_idem (s : State) : wake (wake s) = wake s := by
  by_cases h : s.sys.mode = .park
  · exact wake_running (wake_mode h)
  · rw [wake_of_ne_park h, wake_of_ne_park h]

/-- The edge is taken after the return from PARK (R202; log 40). -/
theorem csFall_wake (p : Port) (s : State) : csFall p (wake s) = csFall p s := by
  unfold csFall
  rw [wake_withPins, wake_withPins, wake_idem, wake_pins]

theorem advance_zero (s : State) : advance 0 s = s := rfl

/-! ### SDO (R184, R191) -/

/-- The bits of a byte leave it most significant first. -/
theorem sdoBit_of_byte {p : Port} {i n : Nat} {b : Byte} (hn : n < 8) (h : s.sdoByte p i = some b) :
    s.sdoBit p (8 * i + n) = some (b.getLsbD (7 - n)) := by
  have hq : (8 * i + n) / 8 = i := by omega
  have hm : (8 * i + n) % 8 = n := by omega
  rw [State.sdoBit, hq, hm, h]
  rfl

theorem sdoByte_receiving {p : Port} (i : Nat) (hc : s.pins.cs.get p = true) (hr : (s.ports.get p).receiving = true) :
    s.sdoByte p i = some ((s.ports.get p).sdo.getD i 0xFF) :=
  if_pos (by rw [hc, hr]; rfl)

/-- Settles O56. -/
theorem responseBuilt : Obligations.ResponseBuilt := by
  refine ⟨fun dt p s h hc => ?falls, fun dt p s hr hc => exec_chipSelectFall_active dt hr hc,
    fun dt p s hr => exec_chipSelectFall_inReset dt p hr, fun dt p s hr hm hc => ?parked, fun p s => ⟨?idle, ?shifts, ?bits⟩⟩
  case falls =>
    refine ⟨_, exec_chipSelectFall dt h.1 hc, ?_⟩
    rw [refreshPark_ports, refreshPark_pins, refreshPark_events, refreshPark_store, refreshPark_arb,
      csFall_run p (by exact h.2)]
    simp only [State.modPort, State.withPorts_ports, State.withPorts_pins, State.withPins_pins, Ports.get_set_self]
    exact ⟨trivial, trivial, rfl, rfl, rfl, rfl, rfl, fun q hq => Ports.get_set_ne _ _ hq⟩
  case parked =>
    have hw : (wake (advance dt s)).sys.inReset = false := by
      rw [wake_parked (by exact hm)]
      exact hr
    have hp : (wake (advance dt s)).pins.cs.get p = false := by rw [wake_pins]; exact hc
    rw [exec_chipSelectFall dt hr hc, exec_chipSelectFall 0 hw hp, advance_zero, csFall_wake]
  case idle =>
    intro hc i
    exact if_neg (by rw [hc]; nofun)
  case shifts =>
    intro hc hr i
    rw [sdoByte_receiving i hc hr]
    exact ⟨fun h => by rw [List.getD_eq_getElem _ _ h], fun h => by rw [List.getD_eq_default _ _ h]⟩
  case bits => exact fun i n b hn h => sdoBit_of_byte hn h

end Sys2Proof.Machine
end

section
/-! RESTART and restart pending (R192, R194, R195), the park conditions, the park idle timer and PARK (R200, R201). -/

namespace Sys2Proof.Machine

variable {s : State}

/-! ### RESTART (R194) -/

/-- RESTART is served while restart pending stands (R195). -/
theorem dispatch_restart {p : Port} (l : List Byte) (h : s.permitted p 7 = true) :
    dispatch (some restartOwner) p 0x73 l s = restartOwner p l s := by
  have hp : ¬ (!s.permitted p (groupOfCode 0x73)) = true := by
    show ¬ (!s.permitted p 7) = true
    rw [h]
    decide
  exact (if_neg hp).trans (if_neg fun hb => absurd (Bool.and_eq_true_iff.1 hb).2 (by decide))

theorem exec_restart {dt : Time} {p : Port} (h : Receiving s p) (hp : s.permitted p 7 = true) :
    exec (.restart dt p []) s =
      .next (answered p 0x73 (restartOwner p [] (atOwner dt p s)).2 (restartOwner p [] (atOwner dt p s)).1) := by
  show onRequest dt p 0x73 [] restartOwner s = _
  rw [onRequest_receiving dt p 0x73 [] restartOwner h (by decide), dispatch_restart [] (by rw [atOwner_permitted]; exact hp)]

/-- The arbiter holds an entry, a drive or a brake hold. -/
theorem arbiter_holds_iff : (!s.arb.queue.isEmpty || !s.arb.running.isEmpty || !s.arb.holds.isEmpty) = true ↔
    ¬ (s.arb.queue = [] ∧ s.arb.running = [] ∧ s.arb.holds = []) := by
  simp only [Bool.or_eq_true, Bool.not_eq_true', List.isEmpty_eq_false_iff, or_assoc, ne_eq, not_and_or]

/-- The checks of RESTART in their order (R194; log 30). -/
theorem restartOwner_eq (p : Port) (s : State) : restartOwner p [] s =
    if s.sys.restartPending then refuse .ok s
    else if s.ctx.ignition ≠ .off then refuse .ignitionState s
    else if s.arb.queue = [] ∧ s.arb.running = [] ∧ s.arb.holds = [] then
      (s.withSys { s.sys with restartPending := true }, Reply.of .ok)
    else refuse .busy s := by
  unfold restartOwner
  rw [if_neg (not_not.2 rfl)]
  simp only [arbiter_holds_iff, ite_not]

/-! ### Restart pending (R192, R195) -/

/-- While restart is pending, a request outside G0 other than RESTART reaches no owner. -/
theorem dispatch_pending {p : Port} {c : Byte} (f : Owner) (l : List Byte) (h : s.permitted p (groupOfCode c) = true)
    (hp : s.sys.restartPending = true) (h0 : groupOfCode c ≠ 0) (hc : c ≠ 0x73) :
    dispatch (some f) p c l s = (s, restartBusy c) := by
  have hk : ¬ (!s.permitted p (groupOfCode c)) = true := by
    rw [h]
    decide
  exact (if_neg hk).trans (if_pos (by rw [hp, bne_iff_ne.2 h0, bne_iff_ne.2 hc]; rfl))

/-! ### The park conditions and the idle timer (R200) -/

theorem Port.all_list (f : Port → Bool) : Port.list.all f = true ↔ ∀ p, f p = true :=
  List.all_eq_true.trans ⟨fun h p => h p (by cases p <;> decide), fun h p _ => h p⟩

/-- No port has an event both captured and enabled. -/
theorem quietEvents_iff :
    s.quietEvents = true ↔ ∀ p : Port, (s.events.get p).captured &&& (s.events.get p).mask = 0 :=
  (Port.all_list _).trans (forall_congr' fun _ => beq_iff_eq)

/-- The held-press tracker is not in phase COMFORT (R127). -/
theorem trackerInComfort_eq_false :
    s.trackerInComfort = false ↔ ∀ h, s.tracker.held = some h → h.comfort = false := by
  unfold State.trackerInComfort
  cases s.tracker.held <;> simp

theorem parkConditions_iff : s.parkConditions = true ↔
    s.sys.mode = .run ∧ s.ctx.ignition = .off ∧ s.ctx.retainedDue = none
      ∧ s.arb.queue = [] ∧ s.arb.running = [] ∧ s.arb.holds = [] ∧ s.groups.entries = []
      ∧ s.search.state ≠ .inFlight ∧ (∀ h, s.tracker.held = some h → h.comfort = false)
      ∧ s.presses.relockDue = none ∧ s.release.watchDue = none ∧ s.store.queue = [] ∧ s.store.program = none
      ∧ s.feedback.queue = [] ∧ (∀ p : Port, (s.events.get p).captured &&& (s.events.get p).mask = 0)
      ∧ (∀ p : Port, s.pins.cs.get p = false) ∧ s.sys.restartPending = false := by
  simp only [State.parkConditions, Bool.and_eq_true, beq_iff_eq, bne_iff_ne, Option.isNone_iff_eq_none, List.isEmpty_iff,
    Bool.not_eq_true', quietEvents_iff, trackerInComfort_eq_false, Port.all_list, and_assoc]

theorem refreshPark_starts (h : s.parkConditions = true) (hp : s.sys.park = .stopped) :
    refreshPark s = s.withSys { s.sys with park := .running (s.now + s.cfg.parkDelay) } := by
  rw [refreshPark, if_pos h, hp]

/-- Running or at its limit, the idle timer stays while the conditions hold. -/
theorem refreshPark_stays (h : s.parkConditions = true) (hp : s.sys.park ≠ .stopped) : refreshPark s = s := by
  rw [refreshPark, if_pos h]
  split
  next hs => exact absurd hs hp
  next => rfl

theorem refreshPark_stops (h : s.parkConditions = false) :
    refreshPark s = s.withSys { s.sys with park := .stopped } :=
  if_neg (by rw [h]; nofun)

/-- Outside RUN the park conditions fail. -/
theorem parkConditions_parked (h : s.sys.mode = .park) : s.parkConditions = false :=
  Bool.eq_false_iff.2 fun hc => absurd (h.symm.trans (parkConditions_iff.1 hc).1) (by decide)

/-! ### The end of the idle timer (R200, R201) -/

theorem exec_parkIdleExpiry {d : Time} (h : s.sys.park = .running d) :
    exec .parkIdleExpiry s = .next (refreshPark (takeParkIdle (reach d s))) := by
  show execParkIdleExpiry s = _
  rw [execParkIdleExpiry, h]
  rfl

theorem exec_parkIdleExpiry_stopped (h : ∀ d, s.sys.park ≠ .running d) : exec .parkIdleExpiry s = .next s := by
  show execParkIdleExpiry s = _
  unfold execParkIdleExpiry
  split
  next d hd => exact absurd hd (h d)
  next => rfl

/-- One of the wake mask bits 0 to 5 is set. -/
theorem wakeable_iff : s.wakeable = true ↔ ∃ i, i < 6 ∧ s.cfg.wakeBit i = true := by
  simp only [State.wakeable, List.any_eq_true, List.mem_range]

theorem takeParkIdle_parks (h : s.wakeable = true) : takeParkIdle s =
    (s.withSys { s.sys with mode := .park, park := .stopped }).withSupply { s.supply with sampleDue := s.now + msec 100 } :=
  if_pos h

theorem takeParkIdle_blocked (h : ¬ s.wakeable = true) :
    takeParkIdle s = offer .parkBlocked (s.withSys { s.sys with park := .atLimit }) :=
  if_neg h

/-- Settles O60. -/
theorem restartAndPark : Obligations.RestartAndPark := by
  refine ⟨fun dt p s h hp => ?restart, fun dt p c l i s hi h hl hp hr h0 hc => ?pending,
    fun d s h => ⟨fun hw => ?parks, fun hw => ?blocked⟩, fun s => parkConditions_iff,
    fun s => ⟨refreshPark_starts, refreshPark_stays, refreshPark_stops⟩, fun s => exec_parkIdleExpiry_stopped⟩
  case restart =>
    rw [exec_restart h hp, restartOwner_eq, atOwner_sys, atOwner_ignition, atOwner_arb]
    dsimp only
    split_ifs <;> rfl
  case pending =>
    obtain ⟨f, hf⟩ := exec_request hi s
    have hg : groupOfCode c ≠ 0 := by
      unfold groupOfCode
      omega
    rw [hf, onRequest_receiving dt p c l f h hl, dispatch_pending f l (by rw [atOwner_permitted]; exact hp)
      (by rw [atOwner_sys]; exact hr) hg hc]
    rfl
  case parks =>
    have hw' : (reach d s).wakeable = true := wakeable_iff.2 hw
    refine ⟨_, exec_parkIdleExpiry h, ?_⟩
    rw [takeParkIdle_parks hw', refreshPark_stops (parkConditions_parked rfl)]
    exact ⟨rfl, rfl, rfl, rfl⟩
  case blocked =>
    have hw' : ¬ (reach d s).wakeable = true := fun hk =>
      have ⟨i, hi, hb⟩ := wakeable_iff.1 hk
      absurd ((hw i hi).symm.trans hb) (by decide)
    rw [exec_parkIdleExpiry h, takeParkIdle_blocked hw']
    rfl

end Sys2Proof.Machine
end

section
/-! Events: the bits of the kinds, their capture, the summary byte and the attention line (R196, R197, R202). -/

namespace Sys2Proof.Machine

/-! ### The kinds and their bits (R196) -/

/-- The kinds in the order of their positions. -/
def eventKinds : List Ev :=
  [.powerOn, .wake, .parkBlocked, .contextStale, .lockChanged, .lockFault, .childChanged, .childFault, .thermalHold
    , .windowStopped, .pinchReversal, .windowFault, .normalizationChanged, .driveRevoked, .telegramAccepted
    , .telegramRejected, .searchPending, .searchEnded, .keyInside, .crashLatched, .crashCleared, .supplyBand
    , .storeRetired, .storeExhausted, .recordLost, .configCommitted, .configRejected, .frameError]

theorem eventKinds_pos : eventKinds.map Ev.pos = List.range 28 := rfl

theorem pos_of_eventKinds {n : Nat} {e : Ev} (h : eventKinds[n]? = some e) : e.pos = n := by
  have hp : (eventKinds.map Ev.pos)[n]? = some e.pos := by rw [List.getElem?_map, h]; rfl
  rw [eventKinds_pos] at hp
  obtain ⟨hn, hg⟩ := List.getElem?_eq_some_iff.1 hp
  rw [List.getElem_range] at hg
  exact hg.symm

/-! ### Capture (R196, R202) -/

/-- An offer outside PARK is the capture on every port, and nothing else. -/
theorem offer_of_ne_park (e : Ev) {s : State} (h : s.sys.mode ≠ .park) : offer e s = captureAll e s := by
  rw [offer, wake_of_ne_park h]

theorem offer_wake (e : Ev) (s : State) : offer e (wake s) = offer e s := by
  rw [offer, wake_idem, offer]

/-! ### The attention line (R197) -/

theorem attention_iff (r : EventRec) : r.attention = true ↔ r.captured &&& r.mask ≠ 0 ∧ r.delayDue = none := by
  rw [EventRec.attention, Bool.and_eq_true, bne_iff_ne, Option.isNone_iff_eq_none]
  rfl

/-! ### The summary byte (R196, R197) -/

section
variable (P : Nat → Prop) [DecidablePred P]

/-- The number whose bit `g` is set for each `g` below `k` outside `P`. -/
def bitsOutside (k : Nat) : Nat := (List.range k).foldl (fun n g => if P g then n else n + 2 ^ g) 0

theorem bitsOutside_succ (k : Nat) :
    bitsOutside P (k + 1) = if P k then bitsOutside P k else bitsOutside P k + 2 ^ k := by
  rw [bitsOutside, List.range_succ, List.foldl_append]
  rfl

theorem bitsOutside_lt : ∀ k, bitsOutside P k < 2 ^ k
  | 0 => Nat.one_pos
  | k + 1 => by
    have ih := bitsOutside_lt k
    rw [bitsOutside_succ]
    split <;> omega

theorem testBit_bitsOutside (g : Nat) : ∀ k, (bitsOutside P k).testBit g = true ↔ g < k ∧ ¬ P g
  | 0 => by simp [bitsOutside]
  | k + 1 => by
    have ih := testBit_bitsOutside g k
    rw [bitsOutside_succ]
    split
    next h =>
      rw [ih]
      refine ⟨fun ⟨hg, hp⟩ => ⟨Nat.lt_succ_of_lt hg, hp⟩, fun ⟨hg, hp⟩ => ⟨?_, hp⟩⟩
      exact lt_of_le_of_ne (Nat.le_of_lt_succ hg) fun hk => hp (hk ▸ h)
    next h =>
      have hor : bitsOutside P k + 2 ^ k = 2 ^ k ||| bitsOutside P k := by
        have := Nat.two_pow_add_eq_or_of_lt (bitsOutside_lt P k) 1
        rwa [Nat.mul_one, Nat.add_comm] at this
      rw [hor, Nat.testBit_or, Nat.testBit_two_pow, Bool.or_eq_true, decide_eq_true_iff, ih]
      constructor
      · rintro (rfl | ⟨hg, hp⟩)
        · exact ⟨Nat.lt_succ_self _, h⟩
        · exact ⟨Nat.lt_succ_of_lt hg, hp⟩
      · rintro ⟨hg, hp⟩
        exact (Nat.eq_or_lt_of_le (Nat.le_of_lt_succ hg)).imp Eq.symm fun hk => ⟨hk, hp⟩

end

/-- Each group of the summary byte with its first and its last kind (R196). -/
def eventGroups : List (Nat × Nat × Nat) :=
  [(0, 0, 3), (1, 4, 8), (2, 9, 13), (3, 14, 18), (4, 19, 20), (5, 21, 21), (6, 22, 26), (7, 27, 27)]

theorem eventGroups_bounds : ∀ x ∈ eventGroups, x.1 < 8 ∧ x.2.2 < 32 := by decide

theorem groupBits_getLsbD : ∀ x ∈ eventGroups, ∀ n < 32,
    (groupBits x.1).getLsbD n = decide (x.2.1 ≤ n ∧ n ≤ x.2.2) := by decide

/-- A word shares a bit with the mask of a group when it has one of the group's kinds. -/
theorem and_groupBits_ne_zero {g lo hi : Nat} (h : (g, lo, hi) ∈ eventGroups) (x : Word32) :
    x &&& groupBits g ≠ 0 ↔ ∃ n, lo ≤ n ∧ n ≤ hi ∧ x.getLsbD n = true := by
  have hb {n : Nat} (hn : n < 32) : (groupBits g).getLsbD n = true ↔ lo ≤ n ∧ n ≤ hi := by
    rw [groupBits_getLsbD _ h n hn, decide_eq_true_iff]
  have hhi : hi < 32 := (eventGroups_bounds _ h).2
  constructor
  · intro hne
    by_contra hall
    refine hne (BitVec.eq_of_getLsbD_eq fun n hn => ?_)
    rw [BitVec.getLsbD_and, BitVec.ofNat_eq_ofNat, BitVec.getLsbD_zero, Bool.and_eq_false_iff, ← Bool.not_eq_true,
      ← Bool.not_eq_true, hb hn]
    by_contra hc
    obtain ⟨hx, hg⟩ := not_or.1 hc
    obtain ⟨hlo, hle⟩ := not_not.1 hg
    exact hall ⟨n, hlo, hle, not_not.1 hx⟩
  · rintro ⟨n, hlo, hle, hx⟩ h0
    have hand : (x &&& groupBits g).getLsbD n = true := by
      rw [BitVec.getLsbD_and, hx, (hb (by omega)).2 ⟨hlo, hle⟩]
      rfl
    rw [h0] at hand
    simp at hand

theorem summary_eq (r : EventRec) : r.summary = byteOf (bitsOutside (fun g => r.outstanding &&& groupBits g = 0) 8) := rfl

theorem summary_getLsbD {g lo hi : Nat} (h : (g, lo, hi) ∈ eventGroups) (r : EventRec) :
    r.summary.getLsbD g = true ↔ ∃ n, lo ≤ n ∧ n ≤ hi ∧ (r.captured &&& r.mask).getLsbD n = true := by
  have hg : g < 8 := (eventGroups_bounds _ h).1
  rw [summary_eq, byteOf, BitVec.getLsbD_ofNat, decide_eq_true hg, Bool.true_and, testBit_bitsOutside,
    ← and_groupBits_ne_zero h]
  exact and_iff_right hg

end Sys2Proof.Machine
end

section
/-! READ_STATUS, CLEAR_EVENTS and SET_EVENT_ENABLE, and the status records byte by byte (R193, R197, R198, section 10.5). -/

namespace Sys2Proof.Machine

variable {s : State}

/-! ### Fields of bytes (section 10.5) -/

theorem toNat_byteOf {n : Nat} (h : n < 256) : (byteOf n).toNat = n := by
  rw [byteOf, BitVec.toNat_ofNat, Nat.mod_eq_of_lt h]

theorem toNat_byteOf_mod (n : Nat) : (byteOf n).toNat = n % 256 := BitVec.toNat_ofNat n 8

theorem nat16_be16 {n : Nat} (h : n < 65536) : nat16 (byteOf (n / 256)) (byteOf n) = n := by
  rw [nat16, toNat_byteOf_mod, toNat_byteOf_mod]
  omega

theorem toNat_word32 (a b c d : Byte) :
    (word32 a b c d).toNat = ((a.toNat * 256 + b.toNat) * 256 + c.toNat) * 256 + d.toNat := by
  have append {n : Nat} (x : BitVec n) (y : Byte) : (x ++ y).toNat = x.toNat * 256 + y.toNat := by
    rw [BitVec.toNat_append, ← Nat.shiftLeft_add_eq_or_of_lt y.isLt, Nat.shiftLeft_eq]
  rw [word32, append, append, append]

/-- A word is its four bytes, most significant first. -/
theorem word32_be32 (x : Word32) : word32 (byteOf (x.toNat / 16777216)) (byteOf (x.toNat / 65536))
    (byteOf (x.toNat / 256)) (byteOf x.toNat) = x := by
  have hx := x.isLt
  apply BitVec.eq_of_toNat_eq
  rw [toNat_word32, toNat_byteOf_mod, toNat_byteOf_mod, toNat_byteOf_mod, toNat_byteOf_mod]
  omega

/-! ### The codes and their lists (section 10.5) -/

theorem codeLatchState_listed (x : LatchState) :
    [LatchState.unlocked, .locked, .deadlocked][(codeLatchState x).toNat]? = some x := by cases x <;> rfl

theorem codeAjar_listed (x : Ajar) : [Ajar.closed, .opened][(codeAjar x).toNat]? = some x := by cases x <;> rfl

theorem codeLockPos_listed (x : LockPos) : [LockPos.unlocked, .locked][(codeLockPos x).toNat]? = some x := by
  cases x <;> rfl

theorem codePhase_listed (x : Phase) : [Phase.idle, .queued, .driving, .settling][(codePhase x).toNat]? = some x := by
  cases x <;> rfl

theorem codeFault_listed (x : DriveFault) :
    [DriveFault.none, .noConfirm, .openLoad, .short][(codeFault x).toNat]? = some x := by cases x <;> rfl

theorem codeReleaseOutcome_listed (x : ReleaseOutcome) :
    [ReleaseOutcome.none, .opened, .noOpen, .openLoad, .short][(codeReleaseOutcome x).toNat]? = some x := by
  cases x <;> rfl

theorem codeChildPos_listed (x : ChildPos) : [ChildPos.disengaged, .engaged][(codeChildPos x).toNat]? = some x := by
  cases x <;> rfl

theorem codeRunState_listed (x : RunState) :
    [RunState.stopped, .queued, .runUp, .runDown, .brake, .reversing, .faulted][codeRunState x]? = some x := by
  cases x <;> rfl

theorem codeNorm_listed (x : Norm) : [Norm.unlearned, .positionLost, .learned][codeNorm x]? = some x := by
  cases x <;> rfl

theorem codeNormPhase_listed (x : NormPhase) : [NormPhase.none, .normUp, .normDown][codeNormPhase x]? = some x := by
  cases x <;> rfl

theorem codeWFault_listed (x : WFault) :
    [WFault.none, .hallFault, .overcurrent, .normFailed][codeWFault x]? = some x := by cases x <;> rfl

theorem codeOutcome_listed (x : RevOutcome) :
    [RevOutcome.none, .complete, .interrupted][codeOutcome x]? = some x := by cases x <;> rfl

theorem codeStop_listed (x : StopCause) :
    [StopCause.none, .target, .released, .stopRequest, .top, .bottom, .pinch, .blocked, .revoked, .timeout, .hallFault
      , .crash, .overcurrent][(codeStop x).toNat]? = some x := by cases x <;> rfl

theorem codeVerdict_listed (x : Verdict) :
    [Verdict.none, .accepted, .resynced, .repeated, .stale, .resyncPending, .suspended][(codeVerdict x).toNat]? =
      some x := by cases x <;> rfl

theorem unlockMode_listed (x : UnlockMode) : [UnlockMode.selective, .global][x.code.toNat]? = some x := by
  cases x <;> rfl

theorem codeAction_listed (x : Action) :
    [Action.lockAll, .unlockAll, .unlockDriver, .unlockDoor, .deadlockAll, .lockTg, .unlockTg, .crashUnlock, .childEngage
      , .childDisengage][(codeAction x).toNat]? = some x := by cases x <;> rfl

theorem originCode_listed (x : Origin) :
    [Origin.flUnlock, .flLock, .frUnlock, .frLock, .tg][(originCode x).toNat]? = some x := by cases x <;> rfl

theorem codeSearchState_listed (x : SearchState) :
    [SearchState.none, .inFlight, .ended][(codeSearchState x).toNat]? = some x := by cases x <;> rfl

theorem codeSearchOutcome_listed (x : SearchOutcome) :
    [SearchOutcome.found, .notFound, .timeout, .crash][(codeSearchOutcome x).toNat]? = some x := by cases x <;> rfl

theorem slotByte_listed (k : SlotId) : SlotId.list[(slotByte k).toNat]? = some k := by cases k <;> rfl

theorem codeZone_listed (x : Zone) :
    [Zone.outsideFL, .outsideFR, .outsideRear, .inside][(codeZone x).toNat]? = some x := by cases x <;> rfl

theorem boolByte_listed (x : Bool) : [false, true][(boolByte x).toNat]? = some x := by cases x <;> rfl

theorem codeBand_listed (x : Band) : [Band.normal, .under, .over][(codeBand x).toNat]? = some x := by cases x <;> rfl

theorem codeModeByte_listed (x : Mode) : [Mode.starting, .run, .park][(codeModeByte x).toNat]? = some x := by
  cases x <;> rfl

theorem codeCause_listed (x : ResetCause) :
    [ResetCause.powerOn, .brownOut, .restart][(codeCause x).toNat]? = some x := by cases x <;> rfl

theorem codeIgnition_listed (x : Ignition) : [Ignition.off, .acc, .run][(codeIgnition x).toNat]? = some x := by
  cases x <;> rfl

theorem codeSpeed_listed (x : Speed) : [Speed.standstill, .moving][(codeSpeed x).toNat]? = some x := by
  cases x <;> rfl

theorem codeDside_listed (x : DriverSide) : [DriverSide.left, .right][(codeDside x).toNat]? = some x := by
  cases x <;> rfl

/-- The classes of a group: 00h is left for none. -/
theorem rank_listed (x : Cls) :
    [none, some Cls.comfort, some .access, some .occupant, some .crash][(byteOf x.rank).toNat]? = some (some x) := by
  cases x <;> rfl

/-- A field that may be absent is read back from its list, FFh lying outside it. -/
theorem orFF_listed {α : Type} {f : α → Byte} {l : List α} (h : ∀ a, l[(f a).toNat]? = some a) (hl : l.length ≤ 255)
    (x : Option α) : l[(orFF f x).toNat]? = x := by
  cases x with
  | none => exact List.getElem?_eq_none hl
  | some a => exact h a

theorem orFF_absent {α : Type} (f : α → Byte) {x : Option α} (h : x = none) : orFF f x = 0xFF := by
  rw [h]
  rfl

/-! ### LATCH and CHILD -/

/-- The drive phase of the tailgate release: queued, or driving while its drive runs (R52). -/
theorem releasePhase_eq (s : State) :
    s.releasePhase = if s.drive? .release ≠ none then 2 else if s.entry? .release ≠ none then 1 else 0 := by
  unfold State.releasePhase State.phase
  cases s.drive? .release with
  | some d =>
    rw [if_pos (by rfl), if_pos (by nofun)]
    cases s.stages.get .release <;> rfl
  | none =>
    rw [if_neg (by nofun), if_neg (not_not.2 rfl)]
    cases s.entry? .release with
    | some e => rfl
    | none => rfl

/-! ### WINDOW -/

/-- Bytes 6 and 7 in mode TARGET. -/
theorem windowStatus_target {w : Win} {t : Nat} (h : (s.windows.get w).mode = some (.target t)) :
    (s.windowStatus w).getD 6 0 = byteOf (t / 256) ∧ (s.windowStatus w).getD 7 0 = byteOf t := by
  unfold State.windowStatus
  dsimp only
  rw [h]
  exact ⟨rfl, rfl⟩

/-- Bytes 6 and 7 in every other mode, and without a movement. -/
theorem windowStatus_noTarget {w : Win} (h : ∀ t, (s.windows.get w).mode ≠ some (.target t)) :
    (s.windowStatus w).getD 6 0 = 0 ∧ (s.windowStatus w).getD 7 0 = 0 := by
  unfold State.windowStatus
  dsimp only
  split
  next t ht => exact absurd ht (h t)
  next => exact ⟨rfl, rfl⟩

/-- Byte 0: run state, normalization, its phase and the restricted flag. -/
theorem runByte_fields (a : RunState) (b : Norm) (c : NormPhase) (d : Bool) :
    let n := (byteOf (codeRunState a + codeNorm b * 8 + codeNormPhase c * 32 + d.toNat * 128)).toNat
    [RunState.stopped, .queued, .runUp, .runDown, .brake, .reversing, .faulted][n % 8]? = some a
      ∧ [Norm.unlearned, .positionLost, .learned][n / 8 % 4]? = some b
      ∧ [NormPhase.none, .normUp, .normDown][n / 32 % 4]? = some c ∧ n / 128 = d.toNat := by
  have ha : codeRunState a < 8 := by cases a <;> decide
  have hb : codeNorm b < 4 := by cases b <;> decide
  have hc : codeNormPhase c < 4 := by cases c <;> decide
  have hd : d.toNat < 2 := Bool.toNat_lt d
  intro n
  have hn : n = codeRunState a + codeNorm b * 8 + codeNormPhase c * 32 + d.toNat * 128 := toNat_byteOf (by omega)
  have hrun : n % 8 = codeRunState a := by omega
  have hnorm : n / 8 % 4 = codeNorm b := by omega
  have hphase : n / 32 % 4 = codeNormPhase c := by omega
  rw [hrun, hnorm, hphase]
  exact ⟨codeRunState_listed a, codeNorm_listed b, codeNormPhase_listed c, by omega⟩

/-- The sources that move a window. -/
def windowSources : List (Option Source) :=
  [none, some .switchDriver, some .switchLocal, some .bodyPort, some .radioPort, some .restraintPort, some .comfort
    , some .normalize]

theorem codeWindowSource_listed : ∀ x ∈ windowSources, windowSources[codeWindowSource x]? = some x := by decide

/-- The class of a movement; class CRASH moves no window. -/
theorem codeClass_listed {c : Option Cls} (h : c ≠ some .crash) :
    [none, some Cls.comfort, some .access, some .occupant][codeClass c]? = some c := by
  rcases c with _ | c
  · rfl
  · cases c with
    | crash => exact absurd rfl h
    | comfort => rfl
    | access => rfl
    | occupant => rfl

/-- Byte 5: mode, source and class of the movement. -/
theorem moveByte_fields (m : Option WMode) {x : Option Source} {c : Option Cls} (hx : x ∈ windowSources)
    (hc : c ≠ some .crash) :
    let n := (byteOf (codeMode m + codeWindowSource x * 4 + codeClass c * 32)).toNat
    n % 4 = codeMode m ∧ windowSources[n / 4 % 8]? = some x
      ∧ [none, some Cls.comfort, some .access, some .occupant][n / 32]? = some c := by
  have hm : codeMode m < 4 := by unfold codeMode; split <;> decide
  have hs : codeWindowSource x < 8 := (List.getElem?_eq_some_iff.1 (codeWindowSource_listed x hx)).1
  have hk : codeClass c < 4 := (List.getElem?_eq_some_iff.1 (codeClass_listed hc)).1
  intro n
  have hn : n = codeMode m + codeWindowSource x * 4 + codeClass c * 32 := toNat_byteOf (by omega)
  have hsource : n / 4 % 8 = codeWindowSource x := by omega
  have hclass : n / 32 = codeClass c := by omega
  rw [hsource, hclass]
  exact ⟨by omega, codeWindowSource_listed x hx, codeClass_listed hc⟩

/-- Byte 8: reversal count, fault and the outcome of the last reversal. -/
theorem faultByte_fields {k : Nat} (hk : k < 4) (f : WFault) (o : RevOutcome) :
    let n := (byteOf (k + codeWFault f * 4 + codeOutcome o * 16)).toNat
    n % 4 = k ∧ [WFault.none, .hallFault, .overcurrent, .normFailed][n / 4 % 4]? = some f
      ∧ [RevOutcome.none, .complete, .interrupted][n / 16]? = some o := by
  have hf : codeWFault f < 4 := by cases f <;> decide
  have ho : codeOutcome o < 4 := by cases o <;> decide
  intro n
  have hn : n = k + codeWFault f * 4 + codeOutcome o * 16 := toNat_byteOf (by omega)
  have hfault : n / 4 % 4 = codeWFault f := by omega
  have houtcome : n / 16 = codeOutcome o := by omega
  rw [hfault, houtcome]
  exact ⟨by omega, codeWFault_listed f, codeOutcome_listed o⟩

/-! ### LAST_GROUP -/

/-- The sources of a group. -/
def groupSources : List Source :=
  [.bodyPort, .fob, .passive, .keyCylinder, .centralButton, .autoRelock, .ignition, .crash, .childButton]

theorem codeGroupSource_listed : ∀ x ∈ groupSources, groupSources[(codeGroupSource x).toNat]? = some x := by decide

/-- The members of groups in the order of their bits. -/
def groupMembers : List Actuator := Latch.list.map .lock ++ Side.list.map .child

theorem memberBit_getLsbD (a : Actuator) : ∀ i < 8, (byteOf (memberBit a)).getLsbD i = true ↔ groupMembers[i]? = some a := by
  cases a with
  | lock l => cases l <;> decide
  | child c => cases c <;> decide
  | release => decide
  | window w => cases w <;> decide

theorem memberSet_cons (a : Actuator) (l : List Actuator) : memberSet (a :: l) = byteOf (memberBit a) + memberSet l :=
  BitVec.ofNat_add ..

/-- Bit `i` of a set of members is set when the member of that bit is in it. -/
theorem memberSet_getLsbD : ∀ {l : List Actuator}, l.Nodup → ∀ i < 8,
    ((memberSet l).getLsbD i = true ↔ ∃ a ∈ l, groupMembers[i]? = some a)
  | [], _, i, _ => by simp [memberSet, byteOf]
  | a :: l, h, i, hi => by
    obtain ⟨ha, hl⟩ := List.nodup_cons.1 h
    have ih := memberSet_getLsbD hl
    have hdisj : byteOf (memberBit a) &&& memberSet l = 0#8 := by
      refine BitVec.eq_of_getLsbD_eq fun j hj => ?_
      rw [BitVec.getLsbD_and, BitVec.getLsbD_zero, Bool.and_eq_false_iff, ← Bool.not_eq_true, ← Bool.not_eq_true,
        memberBit_getLsbD a j hj, ih j hj, ← not_and_or]
      rintro ⟨hja, b, hb, hjb⟩
      exact ha (Option.some.inj (hja.symm.trans hjb) ▸ hb)
    rw [memberSet_cons, BitVec.add_eq_or_of_and_eq_zero _ _ hdisj, BitVec.getLsbD_or, Bool.or_eq_true,
      memberBit_getLsbD a i hi, ih i hi, List.exists_mem_cons_iff]

/-! ### The record of a kind and an index (R193) -/

theorem status_latch {n : Nat} {l : Latch} (p : Port) (h : Latch.list[n]? = some l) :
    s.status p 0 n = some (s.latchStatus l) := congrArg (Option.map s.latchStatus) h

theorem status_child {n : Nat} {c : Side} (p : Port) (h : Side.list[n]? = some c) :
    s.status p 1 n = some (s.childStatus c) := congrArg (Option.map s.childStatus) h

theorem status_window {n : Nat} {w : Win} (p : Port) (h : Win.list[n]? = some w) :
    s.status p 2 n = some (s.windowStatus w) := congrArg (Option.map s.windowStatus) h

theorem status_fob {n : Nat} {k : SlotId} (p : Port) (h : SlotId.list[n]? = some k) :
    s.status p 3 n = some (s.fobStatus k) := congrArg (Option.map s.fobStatus) h

theorem status_config {i : Nat} (p : Port) (h : i < 4) :
    s.status p 9 i = some ((s.cfg.toList.drop (13 * i)).take 13) := by
  rw [← part_toList h]
  exact if_pos (Nat.le_of_lt_succ h)

/-- A kind above 9, or an index that its kind does not have, has no record. -/
theorem status_eq_none {kind index : Nat} (p : Port)
    (h : 9 < kind ∨ 5 < index ∨ 4 ≤ kind ∧ kind ≤ 8 ∧ 0 < index ∨ kind = 0 ∧ 4 < index ∨ kind = 1 ∧ 1 < index
      ∨ (kind = 2 ∨ kind = 9) ∧ 3 < index) : s.status p kind index = none := by
  have absent {α : Type} {l : List α} (f : α → List Byte) (hl : l.length ≤ index) : (l[index]?).map f = none := by
    rw [List.getElem?_eq_none hl]
    rfl
  unfold State.status
  split
  case h_1 => exact absent _ (show 5 ≤ index by omega)
  case h_2 => exact absent _ (show 2 ≤ index by omega)
  case h_3 => exact absent _ (show 4 ≤ index by omega)
  case h_4 => exact absent _ (show 6 ≤ index by omega)
  case h_10 => exact if_neg (by omega)
  case h_11 => rfl
  all_goals omega

/-! ### The requests of group G0 (R193, R198) -/

/-- Every port may send a request of group G0, restart pending or not (R189, R195). -/
theorem admitted_zero (s : State) (p : Port) : Admitted s p 0 := ⟨rfl, Or.inl rfl⟩

theorem exec_readStatus {dt : Time} {p : Port} {kind index : Byte} {r : Reply} (h : Receiving s p)
    (hr : readStatusOwner p [kind, index] (atOwner dt p s) = (atOwner dt p s, r)) :
    exec (.readStatus dt p [kind, index]) s = .next (answered p 0x01 r (atOwner dt p s)) :=
  onRequest_unchanged h (admitted_zero s p) (by simp) hr

theorem readStatusOwner_some {p : Port} {kind index : Byte} {bytes : List Byte}
    (h : s.status p kind.toNat index.toNat = some bytes) :
    readStatusOwner p [kind, index] s = (s, { result := .ok, payload := bytes }) := by
  simp only [readStatusOwner, h]

theorem readStatusOwner_none {p : Port} {kind index : Byte} (h : s.status p kind.toNat index.toNat = none) :
    readStatusOwner p [kind, index] s = (s, Reply.of .badArgument) := by
  simp only [readStatusOwner, h, refuse]

/-- Settles O59. -/
theorem statusAndEventsServed : Obligations.StatusAndEventsServed := by
  refine ⟨fun dt p s h => ?nop, fun dt p kind index bytes s h hb => exec_readStatus h (readStatusOwner_some hb),
    fun dt p kind index s h hb => ?unlisted, fun dt p a b c d s h => ?clear, fun dt p a b c d s h => ?enable,
    fun p d s h => ?delay, fun p n l s h => ⟨_, status_latch p h, ?latch⟩,
    fun p n c s h => ⟨_, status_child p h, rfl, ?child⟩, fun p n w s h => ⟨_, status_window p h, rfl, ?window⟩,
    fun p n k s h => ⟨_, status_fob p h, rfl, ?fob⟩, fun p s => ⟨_, rfl, rfl, ?search⟩, fun p s h => ?noGroup,
    fun p g s h => ?group, fun p s => ⟨_, rfl, rfl, ?supply⟩, fun p s => ?store, fun p s => ⟨_, rfl, rfl, ?system⟩,
    fun p i s h => status_config p h, fun r => ⟨attention_iff r, fun g lo hi h => summary_getLsbD h r⟩, fun n e h => ?bit,
    fun e s => ⟨fun h => ?events, fun h p => ?captured, fun _ => (offer_wake e s).symm⟩⟩
  case nop => exact onRequest_unchanged h (admitted_zero s p) (by simp) rfl
  case unlisted =>
    refine exec_readStatus h (readStatusOwner_none (status_eq_none p ?_))
    simp only [← BitVec.toNat_inj] at hb
    exact hb
  case clear =>
    show onRequest dt p 0x02 [a, b, c, d] clearEventsOwner s = _
    rw [onRequest_admitted dt p 0x02 _ clearEventsOwner h (admitted_zero s p) (by simp)]
    simp only [clearEventsOwner, atOwner_now, atOwner_cfg]
    rfl
  case enable =>
    exact onRequest_admitted dt p 0x03 _ setEventEnableOwner h (admitted_zero s p) (by simp)
  case delay =>
    rw [exec_eventDelayExpiry, h, onTimer_due]
  case latch =>
    by_cases ht : l = .tg
    · subst ht
      exact ⟨rfl, codeLatchState_listed _, codeAjar_listed _, codeLockPos_listed _, codePhase_listed _, rfl,
        codeFault_listed _, rfl, rfl, fun hn => absurd rfl hn,
        fun _ => ⟨releasePhase_eq s, rfl, codeReleaseOutcome_listed _⟩⟩
    · rw [State.latchStatus, if_neg ht]
      exact ⟨rfl, codeLatchState_listed _, codeAjar_listed _, codeLockPos_listed _, codePhase_listed _, rfl,
        codeFault_listed _, rfl, rfl, fun _ => ⟨rfl, rfl, rfl⟩, fun hn => absurd hn ht⟩
  case child =>
    exact ⟨codeChildPos_listed _, codeChildPos_listed _, codePhase_listed _, rfl, codeFault_listed _, rfl, rfl, rfl⟩
  case window =>
    obtain ⟨hrun, hnorm, hphase, hrestricted⟩ := runByte_fields (s.windows.get w).run (s.windows.get w).norm
      (s.windows.get w).normPhase (s.windows.get w).restricted
    refine ⟨hrun, hnorm, hphase, hrestricted, nat16_be16, nat16_be16, fun hs hc => moveByte_fields _ hs hc,
      fun t ht hlt => ?_, windowStatus_noTarget, fun hk => faultByte_fields hk _ _, codeStop_listed _,
      codeStop_listed _, nat16_be16⟩
    obtain ⟨hhigh, hlow⟩ := windowStatus_target ht
    dsimp only
    rw [hhigh, hlow, nat16_be16 hlt]
  case fob => exact ⟨word32_be32 _, rfl, unlockMode_listed _, rfl, codeVerdict_listed _⟩
  case search =>
    refine ⟨codeSearchState_listed _, rfl, orFF_listed originCode_listed (by decide) _, orFF_absent _, ?_,
      orFF_listed codeSearchOutcome_listed (by decide) _, orFF_absent _, orFF_listed slotByte_listed (by decide) _,
      orFF_absent _, orFF_listed codeZone_listed (by decide) _, orFF_absent _,
      orFF_listed boolByte_listed (by decide) _, orFF_absent _, rfl, rfl⟩
    show orFF byteOf s.search.timeout = _
    cases s.search.timeout <;> rfl
  case noGroup =>
    show some (s.lastGroupStatus p) = _
    rw [State.lastGroupStatus, h]
  case group =>
    have hs : s.status p 5 0 = some (s.lastGroupStatus p) := rfl
    rw [hs, State.lastGroupStatus, h]
    refine ⟨_, rfl, rfl, rfl, codeGroupSource_listed _, rank_listed _, codeAction_listed _, memberSet_getLsbD,
      memberSet_getLsbD, memberSet_getLsbD, ?_⟩
    show orFF (fun i : Fin 8 => byteOf i.val) g.pattern = _
    cases g.pattern <;> rfl
  case supply =>
    exact ⟨nat16_be16, codeBand_listed _, rfl, rfl, congrArg byteOf (windowUnits_eq s)⟩
  case store =>
    have hc : byteOf s.cfg.commitCount = s.cfg[51] := by
      rw [Image.commitCount, Image.byte, byteOf, BitVec.ofNat_toNat, BitVec.setWidth_eq]
      exact (List.getD_eq_getElem _ _ (by simp)).trans (Vector.getElem_toList _)
    rw [← hc]
    rfl
  case system =>
    refine ⟨codeModeByte_listed _, codeCause_listed _, rfl, rfl, ?_, codeIgnition_listed _, codeSpeed_listed _, rfl,
      codeDside_listed _, rfl, rfl⟩
    show boolByte (s.crash.line == .fault) = _
    cases s.crash.line <;> rfl
  case bit =>
    rw [Ev.bit, pos_of_eventKinds h]
  case events =>
    rw [offer_of_ne_park e h]
    rfl
  case captured =>
    rw [offer_of_ne_park e h, captureAll_get]
    rfl

end Sys2Proof.Machine
end

section
/-! The unused bits of the event words along a step (R196, R198). -/

namespace Sys2Proof.Machine

/-- A chain of changes keeps the unused bits of the event words: a capture, a clear and a new mask do, and a reset
writes captured flags and masks without them. -/
theorem Chain.eventsUsed {s t : State} (h : Chain s t) (hs : EventsUsed s) : EventsUsed t := by
  induction h with
  | refl => exact hs
  | events _ _ k ih => exact k ih
  | reset => exact eventsUsed_afterReset _ _ _ _ _
  | _ => assumption

/-- Settles O6: the event words keep their unused bits along the chain of changes that a step is. -/
theorem eventWordsKept : Obligations.EventWordsKept := by
  intro s t hs h
  obtain ⟨q, k⟩ := step_kept h
  exact k.chain.eventsUsed hs

end Sys2Proof.Machine
end

section
/-! The front of the queue of waiting commands (log 1). -/

namespace Sys2Proof.Machine

/-- Settles O1: `step` matches on the queue, and a queue with a front takes the branch that runs it. -/
theorem stepRunsFront : Obligations.StepRunsFront := by
  intro c rest s h
  rw [step, h]

end Sys2Proof.Machine
end
